-- ==== Sys2Proof/Word.lean ====
section
/-! DEFINITION. The fixed-width words of the block (rules R8, R70, R34). -/

namespace Sys2Proof

/-- One byte as the host delivers a command word (log entry 11). -/
abbrev Byte := BitVec 8

/-- The command word `CW[6:0]` of rule R70. -/
abbrev CommandWord := BitVec 7

/-- The `addr` field of a command word: an address of the configuration space (rules R50, R70). -/
abbrev CfgAddr := BitVec 4

/-- The STATUS word of rule R34. -/
abbrev StatusWord := BitVec 8

end Sys2Proof
end

