-- ==== Sys2Proof/Config.lean ====
section
/-! DEFINITION. The implementation parameters the spec leaves open (rule R7). The machine carries them in
its state and never writes them, so every statement covers every value of them (log entry 1). -/

namespace Sys2Proof

/-- The named parameters of rule R7. `LSB_V` is the positive rational `lsbNum / lsbDen` volts (log entry 3).
The constraints of rule R7 are `Params.wellFormed` (WellFormed.lean). -/
structure Params where
  /-- `SAMPLE_W`: width of sample codes and thresholds. -/
  sampleW : Nat
  /-- `TS_W`: width of the tick fields `OFS` and `DUR`. -/
  tsW : Nat
  /-- Numerator of `LSB_V`, in volts. -/
  lsbNum : Nat
  /-- Denominator of `LSB_V`. -/
  lsbDen : Nat
deriving DecidableEq, Repr

/-- The parameters of the one machine `State.reset` stands for: `SAMPLE_W = 16`, `TS_W = 32`,
`LSB_V = 0.001`, the instantiation of 95_test_vectors.md. DESIGN CHOICE, unsafe (log entry 2): the spec fixes
none of the three, and no statement of the model rests on these numbers. -/
def Config.params : Params := { sampleW := 16, tsW := 32, lsbNum := 1, lsbDen := 1000 }

end Sys2Proof
end

