-- ==== Sys2Proof/Machine/Registers.lean ====
section
/-! DEFINITION. The configuration registers (rules R21 to R32), the volt to code conversion and the register
profiles (rules R31, R41, R143). -/

namespace Sys2Proof.Machine

/-- The nine implemented configuration registers, in address order (rules R21, R51). -/
inductive CfgReg where
  | mode | enterHi | exitHi | exitLo | enterLo | iUpper | iLower | qUpper | qLower
deriving DecidableEq, Repr

/-- One set of the nine registers: `SH` of rule R21 or `AC` of rule R32, at sample width `w`. -/
structure ConfigRegs (w : Nat) where
  mode : BitVec 2
  enterHi : BitVec w
  exitHi : BitVec w
  exitLo : BitVec w
  enterLo : BitVec w
  iUpper : BitVec w
  iLower : BitVec w
  qUpper : BitVec w
  qLower : BitVec w
deriving DecidableEq, Repr

/-- The register at an address, none at the reserved addresses 9 to 15 (rules R50, R51). -/
def cfgRegAt (addr : CfgAddr) : Option CfgReg :=
  match addr.toNat with
  | 0 => some .mode
  | 1 => some .enterHi
  | 2 => some .exitHi
  | 3 => some .exitLo
  | 4 => some .enterLo
  | 5 => some .iUpper
  | 6 => some .iLower
  | 7 => some .qUpper
  | 8 => some .qLower
  | _ => none

/-- The address of a register (rule R51). -/
def cfgAddrOf : CfgReg → CfgAddr
  | .mode => 0
  | .enterHi => 1
  | .exitHi => 2
  | .exitLo => 3
  | .enterLo => 4
  | .iUpper => 5
  | .iLower => 6
  | .qUpper => 7
  | .qLower => 8

/-- `MODE = 0` selects TRI (rules R22, R77). -/
def modeTri : BitVec 2 := 0

/-- `MODE = 1` selects PAM3 (rules R22, R77). -/
def modePam3 : BitVec 2 := 1

/-- `round_half_away_from_zero (a / b)` of rule R31, for a positive `b`. -/
def roundHalfAway (a : Int) (b : Nat) : Int :=
  if 0 ≤ a then (2 * a + b) / (2 * b) else -((2 * (-a) + b) / (2 * b))

/-- `clamp(n, lo, hi)` of rule R31. -/
def clampTo (n lo hi : Int) : Int := if n < lo then lo else if hi < n then hi else n

/-- The smallest code, `-2^(SAMPLE_W-1)`. -/
def minCode (w : Nat) : Int := -(2 ^ (w - 1) : Nat)

/-- The largest code, `2^(SAMPLE_W-1) - 1`. -/
def maxCode (w : Nat) : Int := (2 ^ (w - 1) : Nat) - 1

/-- The integer `conv(x)` of rule R31 for `x = num / den` volts: `x / LSB_V` is
`(num * lsbDen) / (den * lsbNum)`. -/
def convCode (p : Params) (num : Int) (den : Nat) : Int :=
  clampTo (roundHalfAway (num * p.lsbDen) (den * p.lsbNum)) (minCode p.sampleW) (maxCode p.sampleW)

/-- `conv(x)` of rule R31 as the register holds it. -/
def conv (p : Params) (num : Int) (den : Nat) : BitVec p.sampleW := BitVec.ofInt p.sampleW (convCode p num den)

/-- The reset configuration of rule R41 (the biphase/Manchester profile of rule R143). -/
def resetConfig (p : Params) : ConfigRegs p.sampleW :=
  { mode := modeTri
    enterHi := conv p 6 10
    exitHi := conv p 2 10
    exitLo := conv p (-2) 10
    enterLo := conv p (-6) 10
    iUpper := conv p 4 10
    iLower := conv p (-4) 10
    qUpper := conv p 4 10
    qLower := conv p (-4) 10 }

/-- The MLT-3 profile of rule R143 for `T = num / den` volts, its other registers at reset. -/
def mlt3Config (p : Params) (num : Int) (den : Nat) : ConfigRegs p.sampleW :=
  { resetConfig p with
    enterHi := conv p num den
    exitHi := conv p num den
    exitLo := conv p (-num) den
    enterLo := conv p (-num) den }

/-- The PAM3 profile of rule R143, its other registers at reset. -/
def pam3Config (p : Params) : ConfigRegs p.sampleW := { resetConfig p with mode := modePam3 }

end Sys2Proof.Machine
end

