-- ==== Sys2Proof/Machine/State.lean ====
section
/-! DEFINITION. The state of the block (rule R20), the host events it takes (rules R13, R70, R71, R190), the
reasons a step can stop, and the state after reset (rules R41, R190). -/

namespace Sys2Proof.Machine

/-- A symbol of the alphabet -1, 0, +1 (rules R10, R33). Its 2-bit encoding is `Symbol.enc`. -/
inductive Symbol where
  | neg | zero | pos
deriving DecidableEq, Repr

/-- An output record (rules R37, R82), tick fields `t` bits wide. -/
structure Record (t : Nat) where
  s0 : BitVec 2
  s1 : BitVec 2
  ofs : BitVec t
  dur : BitVec t
deriving DecidableEq, Repr

/-- The values on the five operand ports (rule R71). -/
structure Operands (p : Params) where
  data : BitVec p.sampleW
  si : BitVec p.sampleW
  sq : BitVec p.sampleW
  ofs : BitVec p.tsW
  dur : BitVec p.tsW
deriving DecidableEq, Repr

/-- What the host issues in one step: a command word and the operand values beside it (rules R13, R70, R71). -/
structure Command (p : Params) where
  cw : CommandWord
  operands : Operands p
deriving DecidableEq, Repr

/-- What the host does to the block between two of its steps. -/
inductive HostEvent (p : Params) where
  /-- The host issues a command. -/
  | command (c : Command p)
  /-- The reset input is asserted, perhaps over a command in progress, which then has no effect (rule R190). -/
  | reset (inProgress : Option (Command p))
deriving DecidableEq, Repr

/-- The state of one block, exactly the pieces rule R20 lists. -/
structure Block (p : Params) where
  /-- Shadow configuration registers `SH` (rule R21). -/
  sh : ConfigRegs p.sampleW
  /-- Active configuration registers `AC` (rule R32). -/
  ac : ConfigRegs p.sampleW
  /-- Hysteresis state `H` (rule R33). -/
  h : Symbol
  /-- STATUS (rule R34). -/
  status : StatusWord
  /-- SEEN (rule R35). -/
  seen : Bool
  /-- The output stream, oldest record first (rule R37). -/
  out : List (Record p.tsW)
deriving DecidableEq, Repr

/-- The machine: the parameters of rule R7, the block's own state (rule R20), and the host's side of the
interface: the values now on the operand ports (log entry 7) and the events not yet taken (log entry 4). -/
structure State where
  params : Params
  block : Block params
  ports : Operands params
  input : List (HostEvent params)
deriving DecidableEq, Repr

/-- Why a step stops with a fault. -/
inductive Fault where
  /-- Raised by SAMPLE alone: a pass is active and `AC.MODE` is 2 or 3. Safe: rule R130 gives no effect there
  and derives that START never latches such a mode; no run from reset reaches it (log entry 8). -/
  | activeModeReserved
deriving DecidableEq, Repr

/-- Why a step refuses. -/
inductive Refusal where
  /-- Raised by no arm of `exec`: every command has its meaning. Safe: it would only stop. -/
  | notModelled (mnemonic : String)
deriving DecidableEq, Repr

/-- The block right after reset (rules R41, R190): no state is unspecified. -/
def resetBlock (p : Params) : Block p :=
  { sh := resetConfig p
    ac := resetConfig p
    h := .zero
    status := 0
    seen := false
    out := [] }

/-- Operand ports all at zero; no rule gives their value before the host drives them (log entry 7). -/
def zeroOperands (p : Params) : Operands p := { data := 0, si := 0, sq := 0, ofs := 0, dur := 0 }

/-- The machine of parameters `p` right after reset, with no host event pending. -/
def State.resetOf (p : Params) : State :=
  { params := p
    block := resetBlock p
    ports := zeroOperands p
    input := [] }

/-- The machine right after reset (rule R190), at the parameters of `Config.params` (log entry 2). -/
def State.reset : State := State.resetOf Config.params

end Sys2Proof.Machine
end

