-- ==== Sys2Proof/Machine/Flags.lean ====
section
/-! DEFINITION. The STATUS bits (rule R34): their places, and reading and writing one. -/

namespace Sys2Proof.Machine

/-- The five STATUS bits a command can set or clear (rules R34, R161). -/
inductive StatusBit where
  | active | cfgErr | empty | seqErr | illCmd
deriving DecidableEq, Repr

/-- The bit position, which is also the cause code of rule R161. -/
def StatusBit.index : StatusBit → Nat
  | .active => 0
  | .cfgErr => 1
  | .empty => 2
  | .seqErr => 3
  | .illCmd => 4

/-- The STATUS word with that one bit set. -/
def StatusBit.mask : StatusBit → StatusWord
  | .active => 0x01
  | .cfgErr => 0x02
  | .empty => 0x04
  | .seqErr => 0x08
  | .illCmd => 0x10

/-- `STATUS.F`. -/
def readStatus (w : StatusWord) (f : StatusBit) : Bool := w.getLsbD f.index

/-- `STATUS.F <- v`: the other bits keep their values. -/
def writeStatus (w : StatusWord) (f : StatusBit) (v : Bool) : StatusWord :=
  if v then w ||| f.mask else w &&& ~~~f.mask

end Sys2Proof.Machine
end

