-- ==== Sys2Proof/Machine/Operands.lean ====
section
/-! DEFINITION. Operand forms: signed reading of codes (rule R10), the value a configuration write stores
(rule R74), the symbol encoding (rule R76), the record word (rule R82), reading and writing a register. -/

namespace Sys2Proof.Machine

/-- `sint(v)` of rule R10. -/
def sint {w : Nat} (v : BitVec w) : Int :=
  if v.msb then (v.toNat : Int) - (2 ^ w : Nat) else v.toNat

/-- The 2-bit two's complement encoding `enc` of rule R76. -/
def Symbol.enc : Symbol → BitVec 2
  | .zero => 0b00
  | .pos => 0b01
  | .neg => 0b11

/-- The integer a symbol stands for (rule R10). -/
def Symbol.value : Symbol → Int
  | .neg => -1
  | .zero => 0
  | .pos => 1

/-- The value of MODE assembled from DATA: `DATA[1:0]` (rule R74). -/
def modeOperand {w : Nat} (data : BitVec w) : BitVec 2 := data.setWidth 2

/-- `SH[a] <- ...` for the register named: MODE takes `DATA[1:0]`, a threshold takes DATA unchanged
(rules R54, R74, R101). -/
def writeReg {w : Nat} (regs : ConfigRegs w) (r : CfgReg) (data : BitVec w) : ConfigRegs w :=
  match r with
  | .mode => { regs with mode := modeOperand data }
  | .enterHi => { regs with enterHi := data }
  | .exitHi => { regs with exitHi := data }
  | .exitLo => { regs with exitLo := data }
  | .enterLo => { regs with enterLo := data }
  | .iUpper => { regs with iUpper := data }
  | .iLower => { regs with iLower := data }
  | .qUpper => { regs with qUpper := data }
  | .qLower => { regs with qLower := data }

/-- The content of a register, as an unsigned number so that MODE and a threshold read alike. No command reads
a register (rule R21): statements and tests do. -/
def readReg {w : Nat} (regs : ConfigRegs w) : CfgReg → Nat
  | .mode => regs.mode.toNat
  | .enterHi => regs.enterHi.toNat
  | .exitHi => regs.exitHi.toNat
  | .exitLo => regs.exitLo.toNat
  | .enterLo => regs.enterLo.toNat
  | .iUpper => regs.iUpper.toNat
  | .iLower => regs.iLower.toNat
  | .qUpper => regs.qUpper.toNat
  | .qLower => regs.qLower.toNat

/-- What a write of DATA leaves in a register, read as `readReg` reads it (rule R74). -/
def storedValue {w : Nat} (r : CfgReg) (data : BitVec w) : Nat :=
  if r = .mode then (modeOperand data).toNat else data.toNat

/-- The record word of rule R82, `4 + 2 * TS_W` bits: `DUR`, `OFS`, `S1`, `S0` from the top down. -/
def recordWord {t : Nat} (r : Record t) : BitVec (t + (t + (2 + 2))) := r.dur ++ (r.ofs ++ (r.s1 ++ r.s0))

end Sys2Proof.Machine
end

