-- ==== Sys2Proof/Machine/Ops.lean ====
section
/-! DEFINITION. The operations the commands share (the primitives of rule R11): STATUS bits, the error
mechanism (rule R160), the configuration check (rule R105), the decision functions (rules R132, R138), the
output stream (rule R37), the latch of START (rule R104), and reset (rule R190). -/

namespace Sys2Proof.Machine

variable {p : Params}

/-- STATUS.F of a block. -/
def Block.has (b : Block p) (f : StatusBit) : Bool := readStatus b.status f

/-- `STATUS.F <- v`. -/
def Block.putStatus (b : Block p) (f : StatusBit) (v : Bool) : Block p :=
  { b with status := writeStatus b.status f v }

/-- `flag F`: taking an error, the only form an error has (rules R11, R160). One STATUS bit is set, nothing
else changes, and the next command is taken normally; there is nothing to return from (rule R165). -/
def Block.flag (b : Block p) (f : StatusBit) : Block p := b.putStatus f true

/-- `SH[a] <- v` (rule R101). -/
def Block.writeShadow (b : Block p) (r : CfgReg) (data : BitVec p.sampleW) : Block p :=
  { b with sh := writeReg b.sh r data }

/-- `AC[a] <- SH[a]` for all nine addresses at once (rule R104). -/
def Block.latch (b : Block p) : Block p := { b with ac := b.sh }

/-- `H <- s`. -/
def Block.putH (b : Block p) (s : Symbol) : Block p := { b with h := s }

/-- `SEEN <- v`. -/
def Block.putSeen (b : Block p) (v : Bool) : Block p := { b with seen := v }

/-- `emit(rec)`: appends one record to the output stream (rules R11, R37). -/
def Block.emit (b : Block p) (r : Record p.tsW) : Block p := { b with out := b.out ++ [r] }

/-- The configuration check `cfg_valid` of rule R105. -/
def cfgValid {w : Nat} (R : ConfigRegs w) : Bool :=
  if R.mode = modeTri then
    decide (sint R.enterLo ≤ sint R.exitLo) && decide (sint R.exitLo ≤ sint R.exitHi) &&
      decide (sint R.exitHi ≤ sint R.enterHi)
  else if R.mode = modePam3 then
    decide (sint R.iLower ≤ sint R.iUpper) && decide (sint R.qLower ≤ sint R.qUpper)
  else false

/-- The TRI decision function `tri_next` of rule R132 under the active registers `ac`. -/
def triNext {w : Nat} (ac : ConfigRegs w) (h : Symbol) (v : Int) : Symbol :=
  match h with
  | .zero => if v > sint ac.enterHi then .pos else if v < sint ac.enterLo then .neg else .zero
  | .pos => if v ≥ sint ac.exitHi then .pos else if v < sint ac.enterLo then .neg else .zero
  | .neg => if v ≤ sint ac.exitLo then .neg else if v > sint ac.enterHi then .pos else .zero

/-- The PAM3 decision function `pam_dec` of rule R138. -/
def pamDec (v up lo : Int) : Symbol := if v > up then .pos else if v < lo then .neg else .zero

/-- The record of a TRI sample decided as `s` (rules R131, R141). -/
def triRecord (o : Operands p) (s : Symbol) : Record p.tsW :=
  { s0 := s.enc, s1 := 0b00, ofs := o.ofs, dur := o.dur }

/-- The record of a PAM3 sample under the active registers `ac` (rules R137, R141). -/
def pamRecord (ac : ConfigRegs p.sampleW) (o : Operands p) : Record p.tsW :=
  { s0 := (pamDec (sint o.si) (sint ac.iUpper) (sint ac.iLower)).enc
    s1 := (pamDec (sint o.sq) (sint ac.qUpper) (sint ac.qLower)).enc
    ofs := o.ofs
    dur := o.dur }

/-- The reset event (rule R190): every piece of the block's state to its value of rule R41. -/
def Block.applyReset (_ : Block p) : Block p := resetBlock p

/-- The machine with another block state; parameters, ports and pending host events stay. -/
def State.withBlock (s : State) (b : Block s.params) : State := { s with block := b }

end Sys2Proof.Machine
end

