-- ==== Sys2Proof/Machine/Control.lean ====
section
/-! DEFINITION. The control commands NOP, CFG_WRITE, START, END and RSVD (40_control.md). -/

namespace Sys2Proof.Machine

variable {p : Params}

/-- CFG_WRITE on the block: an implemented address (rule R101) or a reserved one (rule R102). -/
def configWrite (addr : CfgAddr) (o : Operands p) (b : Block p) : Block p :=
  match cfgRegAt addr with
  | some r => b.writeShadow r o.data
  | none => b.flag .illCmd

/-- What an accepted START does after its check: latch, H and SEEN to 0, ACTIVE to 1 (rule R104). -/
def openPass (b : Block p) : Block p := (((b.latch).putH .zero).putSeen false).putStatus .active true

/-- START on the block: in a pass rule R106, while idle rule R104. -/
def startPass (b : Block p) : Block p :=
  if b.has .active then b.flag .seqErr
  else
    let cleared := (b.putStatus .cfgErr false).putStatus .empty false
    if cfgValid cleared.sh then openPass cleared else cleared.flag .cfgErr

/-- END on the block: in a pass rule R107, while idle rule R108. -/
def closePass (b : Block p) : Block p :=
  if b.has .active then (b.putStatus .active false).putStatus .empty (!b.seen)
  else b.flag .seqErr

/-- NOP (rule R100): nothing changes. -/
def execNop (s : State) : Host.Outcome State Fault Refusal := .next s

/-- CFG_WRITE (rules R101, R102). -/
def execCfgWrite (addr : CfgAddr) (s : State) : Host.Outcome State Fault Refusal :=
  .next (s.withBlock (configWrite addr s.ports s.block))

/-- START (rules R104, R106). -/
def execStart (s : State) : Host.Outcome State Fault Refusal := .next (s.withBlock (startPass s.block))

/-- END (rules R107, R108). -/
def execEnd (s : State) : Host.Outcome State Fault Refusal := .next (s.withBlock (closePass s.block))

/-- RSVD with `op = 5` (rule R109). -/
def execRsvd5 (s : State) : Host.Outcome State Fault Refusal := .next (s.withBlock (s.block.flag .illCmd))

/-- RSVD with `op` 6 or 7 (rule R109). -/
def execRsvd67 (s : State) : Host.Outcome State Fault Refusal := .next (s.withBlock (s.block.flag .illCmd))

end Sys2Proof.Machine
end

