-- ==== Sys2Proof/Machine/Sample.lean ====
section
/-! DEFINITION. SAMPLE and its two decision engines (41_sample.md). -/

namespace Sys2Proof.Machine

variable {p : Params}

/-- `sample_tri` of rule R131. -/
def sampleTri (o : Operands p) (b : Block p) : Block p :=
  let s := triNext b.ac b.h (sint o.si)
  (b.putH s).emit (triRecord o s)

/-- `sample_pam3` of rule R137: H is neither read nor written. -/
def samplePam3 (o : Operands p) (b : Block p) : Block p := b.emit (pamRecord b.ac o)

/-- SAMPLE on the block (rule R130). In a pass whose `AC.MODE` is 2 or 3, which rule R130 derives cannot arise,
it stops (log entry 8). -/
def takeSample (o : Operands p) (b : Block p) : Except Fault (Block p) :=
  if b.has .active then
    let marked := b.putSeen true
    if marked.ac.mode = modeTri then .ok (sampleTri o marked)
    else if marked.ac.mode = modePam3 then .ok (samplePam3 o marked)
    else .error .activeModeReserved
  else .ok (b.flag .seqErr)

/-- SAMPLE (rule R130). -/
def execSample (s : State) : Host.Outcome State Fault Refusal :=
  match takeSample s.ports s.block with
  | .ok b => .next (s.withBlock b)
  | .error f => .fault f

end Sys2Proof.Machine
end

