-- ==== Sys2Proof/Syntax.lean ====
section
/-! DEFINITION. The commands of the block, one constructor per row of the opcode table (rules R70, R72). -/

namespace Sys2Proof

/-- A decoded command word. Each constructor keeps every bit its row leaves open, the ignored `addr` bits
included (rule R73, log entry 12). The operand values stand on the operand ports (rule R71), not here. -/
inductive Instr where
  /-- NOP, row `000xxxx` (rule R100); `addr` is ignored. -/
  | nop (addr : CfgAddr)
  /-- CFG_WRITE, row `001aaaa` (rules R101, R102). -/
  | cfgWrite (addr : CfgAddr)
  /-- START, row `010xxxx` (rules R104, R106); `addr` is ignored. -/
  | start (addr : CfgAddr)
  /-- SAMPLE, row `011xxxx` (rule R130); `addr` is ignored. -/
  | sample (addr : CfgAddr)
  /-- END, row `100xxxx` (rules R107, R108); `addr` is ignored. -/
  | endPass (addr : CfgAddr)
  /-- RSVD with `op = 5`, row `101xxxx` (rule R109). -/
  | rsvd5 (addr : CfgAddr)
  /-- RSVD with `op` 6 or 7, row `11xxxxx` (rule R109): `low` is the low bit of `op` and `addr`. -/
  | rsvd67 (low : BitVec 5)
deriving DecidableEq, Repr

end Sys2Proof
end

