-- ==== Sys2Proof/Machine/Dispatch.lean ====
section
/-! DEFINITION. One arm per command (rule R72). -/

namespace Sys2Proof.Machine

def exec (i : Instr) (s : State) : Host.Outcome State Fault Refusal :=
  match i with
  | .nop _ => Sys2Proof.Machine.execNop s
  | .cfgWrite addr => Sys2Proof.Machine.execCfgWrite addr s
  | .start _ => Sys2Proof.Machine.execStart s
  | .sample _ => Sys2Proof.Machine.execSample s
  | .endPass _ => Sys2Proof.Machine.execEnd s
  | .rsvd5 _ => Sys2Proof.Machine.execRsvd5 s
  | .rsvd67 _ => Sys2Proof.Machine.execRsvd67 s

end Sys2Proof.Machine
end

