-- ==== Sys2Proof/WellFormed.lean ====
section
/-! DEFINITION. Well-formedness: of the parameters (rule R7) and of a decoded command (rule R78). -/

namespace Sys2Proof

/-- The constraints of rule R7: `SAMPLE_W >= 2`, `TS_W >= 1`, and `LSB_V` a positive rational. -/
abbrev Params.wellFormed (p : Params) : Prop :=
  2 ≤ p.sampleW ∧ 1 ≤ p.tsW ∧ 0 < p.lsbNum ∧ 0 < p.lsbDen

/-- Every value of every field of a command has an encoding (rule R78: all 128 words have a defined effect),
and the field types admit no other value, so there is nothing to refuse. -/
def Instr.wellFormed : Instr → Bool
  | .nop _ => true
  | .cfgWrite _ => true
  | .start _ => true
  | .sample _ => true
  | .endPass _ => true
  | .rsvd5 _ => true
  | .rsvd67 _ => true

end Sys2Proof
end

