-- ==== Sys2Proof/Decode.lean ====
section
/-! DEFINITION. Decoder and encoder of command words (rules R70 to R73, R78), and the byte form in which the
host delivers a word (log entry 11). -/

namespace Sys2Proof

/-- `op = CW[6:4]` (rule R70). -/
def opField (w : CommandWord) : BitVec 3 := w.extractLsb' 4 3

/-- `addr = CW[3:0]` (rule R70). -/
def addrField (w : CommandWord) : CfgAddr := w.extractLsb' 0 4

/-- The opcode map of rule R72. Total: every one of the 128 words is a command (rule R78). -/
def decode (w : CommandWord) : Instr :=
  if opField w = 0b000#3 then .nop (addrField w)
  else if opField w = 0b001#3 then .cfgWrite (addrField w)
  else if opField w = 0b010#3 then .start (addrField w)
  else if opField w = 0b011#3 then .sample (addrField w)
  else if opField w = 0b100#3 then .endPass (addrField w)
  else if opField w = 0b101#3 then .rsvd5 (addrField w)
  else .rsvd67 (w.extractLsb' 0 5)

/-- Why a byte sequence is no command. -/
inductive DecodeError where
  /-- There is no byte to read. -/
  | noByte
  /-- The byte is above 0x7F: a command word has 7 bits (rules R8, R70). -/
  | notACommandWord (b : Byte)
deriving DecidableEq, Repr

/-- Reads one command from bytes, one byte a command word (rule R70: one command length), and gives the bytes
left over. -/
def decodeBytes : List Byte → Except DecodeError (Instr × List Byte)
  | [] => .error .noByte
  | b :: rest => if b.msb then .error (.notACommandWord b) else .ok (decode (b.setWidth 7), rest)

/-- The command word of a command: its row's fixed bits of rule R72 and its own field bits. -/
def encode : Instr → CommandWord
  | .nop addr => 0b000#3 ++ addr
  | .cfgWrite addr => 0b001#3 ++ addr
  | .start addr => 0b010#3 ++ addr
  | .sample addr => 0b011#3 ++ addr
  | .endPass addr => 0b100#3 ++ addr
  | .rsvd5 addr => 0b101#3 ++ addr
  | .rsvd67 low => 0b11#2 ++ low

/-- The byte form of a command. -/
def encodeBytes (i : Instr) : List Byte := [(encode i).setWidth 8]

/-- The first `n` bytes of the number `w`, least significant first. -/
def bytesOf : Nat → Nat → List Byte
  | 0, _ => []
  | n + 1, w => BitVec.ofNat 8 w :: bytesOf n (w / 256)

/-- The command the decoder reads from `nbits` bits of `w`; none where it refuses or bytes are left over. -/
def decodeTableWord (nbits w : Nat) : Option Instr :=
  match decodeBytes (bytesOf ((nbits + 7) / 8) w) with
  | .ok (i, []) => some i
  | .ok (_, _ :: _) => none
  | .error _ => none

end Sys2Proof
end

