-- ==== Sys2Proof/Machine/Fetch.lean ====
section
/-! DEFINITION. Taking the host's next event: the block takes commands in the order the host issues them
(rules R20, R57), and the host may assert reset between them or over one in progress (rule R190). -/

namespace Sys2Proof.Machine

/-- The machine as a command finds it: its operands on the ports (rule R71), the event taken. -/
def State.present (s : State) (o : Operands s.params) (rest : List (HostEvent s.params)) : State :=
  { s with ports := o, input := rest }

/-- The machine after a reset event: the block at its reset values, the event taken; the parameters, the
ports and the host's later events are not the block's to reset (log entry 6). -/
def State.afterReset (s : State) (rest : List (HostEvent s.params)) : State :=
  { s with block := s.block.applyReset, input := rest }

/-- The host issues the commands `cs` next, before the events already pending. -/
def State.issue (s : State) (cs : List (Command s.params)) : State :=
  { s with input := cs.map .command ++ s.input }

/-- A command word on the wires, every operand port at 0. -/
def bareCommand (p : Params) (w : Nat) : Command p := { cw := BitVec.ofNat 7 w, operands := zeroOperands p }

end Sys2Proof.Machine
end

