-- ==== Sys2Proof/Machine/Step.lean ====
section
/-! DEFINITION. One step (rules R6, R13): the block takes the host's next event. -/

namespace Sys2Proof.Machine

/-- One step: a pending command is decoded and runs on its operands; a reset event resets the block; with no
event pending nothing happens (log entry 5). -/
def step (s : State) : Host.Outcome State Fault Refusal :=
  match s.input with
  | [] => .next s
  | .command c :: rest => exec (decode c.cw) (s.present c.operands rest)
  | .reset _ :: rest => .next (s.afterReset rest)

/-- `s` with the command word `w`, operands all 0, as the very next command the host issues (log entry 4). The
command word has 7 wires (rule R70): bits of `w` above them are not carried. -/
def State.withFetchWord (s : State) (_nbits w : Nat) : State := s.issue [bareCommand s.params w]

end Sys2Proof.Machine
end

