-- ==== Sys2Proof/Machine/Assembler.lean ====
section
/-! DEFINITION. The assembler notation of rule R80 and the pseudo-commands of rule R81: from text to commands.
Log entry 14 lists what the two rules leave open. -/

namespace Sys2Proof.Machine

/-- One assembler form of rule R80, its integers as written. -/
inductive Asm where
  | nop
  | cfgw (addr : CfgAddr) (value : Int)
  | start
  | sampleTri (si ofs dur : Int)
  | sample (si sq ofs dur : Int)
  | endPass
  | cw (word : Int)
deriving DecidableEq, Repr

/-- A pseudo-command of rule R81. -/
inductive Pseudo where
  | modeTri
  | modePam3
  | band (enterHi exitHi exitLo enterLo : Int)
  | mlt3 (t : Int)
  | iq (iUpper iLower qUpper qLower : Int)
deriving DecidableEq, Repr

/-- Why the assembler refuses a line. -/
inductive AsmError where
  /-- The first word, or the number of operands after it, is no form of rules R80 and R81. -/
  | unknownForm
  /-- An operand is no integer of rule R80. -/
  | badInteger
  /-- An operand is no register of rule R80. -/
  | badRegister
  /-- An integer is outside its field (rule R80). -/
  | outOfRange
deriving DecidableEq, Repr

/-- `cfgw` of a register by its name. -/
def cfgwReg (r : CfgReg) (v : Int) : Asm := .cfgw (cfgAddrOf r) v

/-- `band` of rule R81. -/
def bandAsm (enterHi exitHi exitLo enterLo : Int) : List Asm :=
  [cfgwReg .enterHi enterHi, cfgwReg .exitHi exitHi, cfgwReg .exitLo exitLo, cfgwReg .enterLo enterLo]

/-- The expansions of rule R81. -/
def Pseudo.expand : Pseudo → List Asm
  | .modeTri => [cfgwReg .mode 0]
  | .modePam3 => [cfgwReg .mode 1]
  | .band eh xh xl el => bandAsm eh xh xl el
  | .mlt3 t => bandAsm t t (-t) (-t)
  | .iq iu il qu ql => [cfgwReg .iUpper iu, cfgwReg .iLower il, cfgwReg .qUpper qu, cfgwReg .qLower ql]

/-- The integer is a `SAMPLE_W`-bit signed code. -/
def isCode (p : Params) (n : Int) : Bool := decide (minCode p.sampleW ≤ n) && decide (n ≤ maxCode p.sampleW)

/-- The integer is a `TS_W`-bit unsigned tick value. -/
def isTick (p : Params) (n : Int) : Bool := decide (0 ≤ n) && decide (n < (2 ^ p.tsW : Nat))

/-- The ranges outside which rule R80's assembler refuses. It states none for a `cfgw` of a reserved register. -/
def Asm.fits (p : Params) : Asm → Bool
  | .nop => true
  | .cfgw addr v =>
    match cfgRegAt addr with
    | some .mode => decide (0 ≤ v) && decide (v ≤ 3)
    | some _ => isCode p v
    | none => true
  | .start => true
  | .sampleTri si ofs dur => isCode p si && isTick p ofs && isTick p dur
  | .sample si sq ofs dur => isCode p si && isCode p sq && isTick p ofs && isTick p dur
  | .endPass => true
  | .cw n => decide (0 ≤ n) && decide (n ≤ 127)

/-- The command word of a form (rule R80): canonical words but for `.cw` (rule R72). -/
def Asm.word : Asm → CommandWord
  | .nop => encode (.nop 0)
  | .cfgw addr _ => encode (.cfgWrite addr)
  | .start => encode (.start 0)
  | .sampleTri _ _ _ => encode (.sample 0)
  | .sample _ _ _ _ => encode (.sample 0)
  | .endPass => encode (.endPass 0)
  | .cw n => BitVec.ofInt 7 n

/-- The operand values of a form (rule R80); a port that the command does not read carries 0. -/
def Asm.operands (p : Params) : Asm → Operands p
  | .cfgw _ v => { zeroOperands p with data := BitVec.ofInt _ v }
  | .sampleTri si ofs dur =>
    { zeroOperands p with si := BitVec.ofInt _ si, ofs := BitVec.ofInt _ ofs, dur := BitVec.ofInt _ dur }
  | .sample si sq ofs dur =>
    { zeroOperands p with
      si := BitVec.ofInt _ si
      sq := BitVec.ofInt _ sq
      ofs := BitVec.ofInt _ ofs
      dur := BitVec.ofInt _ dur }
  | .nop => zeroOperands p
  | .start => zeroOperands p
  | .endPass => zeroOperands p
  | .cw _ => zeroOperands p

/-- The command of a form, refused where an integer is outside its field (rule R80). -/
def Asm.assemble (p : Params) (a : Asm) : Except AsmError (Command p) :=
  if a.fits p then .ok { cw := a.word, operands := a.operands p } else .error .outOfRange

/-- The commands of a list of forms, refused at the first form refused. -/
def assembleAll (p : Params) : List Asm → Except AsmError (List (Command p))
  | [] => .ok []
  | a :: as =>
    match a.assemble p, assembleAll p as with
    | .ok c, .ok cs => .ok (c :: cs)
    | .error e, _ => .error e
    | .ok _, .error e => .error e

/-! Text. -/

/-- A space or a tab, or the carriage return a line may end in. -/
def isBlankChar (c : Char) : Bool := c == ' ' || c == '\t' || c == '\r'

/-- The text without blanks at either end. -/
def trimBlank (cs : List Char) : List Char :=
  ((cs.dropWhile isBlankChar).reverse.dropWhile isBlankChar).reverse

/-- The line up to its comment (rule R80: `;` starts a comment). -/
def stripComment (cs : List Char) : List Char := cs.takeWhile (fun c => c != ';')

/-- The pieces of the text between the separators. -/
def splitOnChar (sep : Char) : List Char → List (List Char)
  | [] => [[]]
  | c :: cs =>
    match splitOnChar sep cs with
    | [] => [[c]]
    | piece :: pieces => if c = sep then [] :: piece :: pieces else (c :: piece) :: pieces

/-- The value of a digit in a base of at most 16. -/
def digitValue (base : Nat) (c : Char) : Option Nat :=
  let n := c.toNat
  let v := if 48 ≤ n ∧ n ≤ 57 then n - 48 else if 97 ≤ n ∧ n ≤ 102 then n - 87
    else if 65 ≤ n ∧ n ≤ 70 then n - 55 else 16
  if v < base then some v else none

/-- The number that digits, most significant first, write after `acc`. -/
def digitsFrom (base : Nat) : List Char → Nat → Option Nat
  | [], acc => some acc
  | c :: cs, acc =>
    match digitValue base c with
    | some d => digitsFrom base cs (acc * base + d)
    | none => none

/-- A number of at least one digit. -/
def parseDigits (base : Nat) (cs : List Char) : Option Nat := if cs = [] then none else digitsFrom base cs 0

/-- An integer of rule R80: decimal, optionally signed, or hexadecimal `0x..`. -/
def parseInt (cs : List Char) : Except AsmError Int :=
  let value : Option Int := match cs with
    | '-' :: ds => (parseDigits 10 ds).map (fun n => -(n : Int))
    | '+' :: ds => (parseDigits 10 ds).map (fun n => (n : Int))
    | '0' :: 'x' :: ds => (parseDigits 16 ds).map (fun n => (n : Int))
    | ds => (parseDigits 10 ds).map (fun n => (n : Int))
  match value with
  | some n => .ok n
  | none => .error .badInteger

/-- The register names of rule R80. -/
def regNames : List (List Char × CfgReg) :=
  [(['M', 'O', 'D', 'E'], .mode),
   (['E', 'N', 'T', 'E', 'R', '_', 'H', 'I'], .enterHi),
   (['E', 'X', 'I', 'T', '_', 'H', 'I'], .exitHi),
   (['E', 'X', 'I', 'T', '_', 'L', 'O'], .exitLo),
   (['E', 'N', 'T', 'E', 'R', '_', 'L', 'O'], .enterLo),
   (['I', '_', 'U', 'P', 'P', 'E', 'R'], .iUpper),
   (['I', '_', 'L', 'O', 'W', 'E', 'R'], .iLower),
   (['Q', '_', 'U', 'P', 'P', 'E', 'R'], .qUpper),
   (['Q', '_', 'L', 'O', 'W', 'E', 'R'], .qLower)]

/-- A register operand of rule R80: a name, or `r<n>` with `n` from 0 to 15. -/
def parseReg (cs : List Char) : Except AsmError CfgAddr :=
  match regNames.find? (fun e => decide (e.1 = cs)) with
  | some e => .ok (cfgAddrOf e.2)
  | none =>
    match cs with
    | 'r' :: ds =>
      match parseDigits 10 ds with
      | some n => if n ≤ 15 then .ok (BitVec.ofNat 4 n) else .error .badRegister
      | none => .error .badRegister
    | _ => .error .badRegister

/-- All the operands as integers, refused at the first that is none. -/
def parseInts : List (List Char) → Except AsmError (List Int)
  | [] => .ok []
  | a :: as =>
    match parseInt a, parseInts as with
    | .ok n, .ok ns => .ok (n :: ns)
    | .error e, _ => .error e
    | .ok _, .error e => .error e

/-- The forms whose operands are integers alone. -/
def intForm (word : List Char) (ns : List Int) : Except AsmError (List Asm) :=
  match word, ns with
  | ['n', 'o', 'p'], [] => .ok [.nop]
  | ['s', 't', 'a', 'r', 't'], [] => .ok [.start]
  | ['e', 'n', 'd'], [] => .ok [.endPass]
  | ['s', 'a', 'm', 'p', 'l', 'e'], [si, ofs, dur] => .ok [.sampleTri si ofs dur]
  | ['s', 'a', 'm', 'p', 'l', 'e'], [si, sq, ofs, dur] => .ok [.sample si sq ofs dur]
  | ['.', 'c', 'w'], [n] => .ok [.cw n]
  | ['b', 'a', 'n', 'd'], [eh, xh, xl, el] => .ok (Pseudo.band eh xh xl el).expand
  | ['m', 'l', 't', '3'], [t] => .ok (Pseudo.mlt3 t).expand
  | ['i', 'q'], [iu, il, qu, ql] => .ok (Pseudo.iq iu il qu ql).expand
  | _, _ => .error .unknownForm

/-- The forms a line's first word and operands stand for (rules R80, R81). -/
def parseForm (word : List Char) (args : List (List Char)) : Except AsmError (List Asm) :=
  match word, args with
  | ['c', 'f', 'g', 'w'], [reg, value] =>
    match parseReg reg, parseInt value with
    | .ok addr, .ok v => .ok [.cfgw addr v]
    | .error e, _ => .error e
    | .ok _, .error e => .error e
  | ['m', 'o', 'd', 'e'], [['t', 'r', 'i']] => .ok Pseudo.modeTri.expand
  | ['m', 'o', 'd', 'e'], [['p', 'a', 'm', '3']] => .ok Pseudo.modePam3.expand
  | _, _ =>
    match parseInts args with
    | .ok ns => intForm word ns
    | .error e => .error e

/-- One line of a command stream (rule R80): none for a blank or comment line, one form for a command, several
for a pseudo-command. -/
def parseLine (line : List Char) : Except AsmError (List Asm) :=
  let body := trimBlank (stripComment line)
  if body = [] then .ok []
  else
    let word := body.takeWhile (fun c => !isBlankChar c)
    let rest := trimBlank (body.dropWhile (fun c => !isBlankChar c))
    parseForm word (if rest = [] then [] else (splitOnChar ',' rest).map trimBlank)

/-- The forms of a whole text, one command per line (rule R80). -/
def parseLines : List (List Char) → Except AsmError (List Asm)
  | [] => .ok []
  | line :: lines =>
    match parseLine line, parseLines lines with
    | .ok as, .ok bs => .ok (as ++ bs)
    | .error e, _ => .error e
    | .ok _, .error e => .error e

/-- The commands a text stands for (rules R80, R81). -/
def assembleText (p : Params) (text : List Char) : Except AsmError (List (Command p)) :=
  match parseLines (splitOnChar '\n' text) with
  | .ok as => assembleAll p as
  | .error e => .error e

end Sys2Proof.Machine
end

