-- ==== Sys2Proof/Machine/Instances.lean ====
section
/-! DEFINITION. Several instances side by side (rules R39, R169): each has all of its own state, they share
none, and one of them takes a step at a time (log entry 16). -/

namespace Sys2Proof.Machine

/-- Instance number `k` takes one step; with no such instance nothing happens. -/
def stepInstance (k : Nat) (instances : List State) : Host.Outcome (List State) Fault Refusal :=
  match instances[k]? with
  | none => .next instances
  | some s =>
    match step s with
    | .next t => .next (instances.set k t)
    | .fault f => .fault f
    | .refused r => .refused r

end Sys2Proof.Machine
end

