-- ==== Sys2Proof/Safety.lean ====
section
/-! DEFINITION. The terms statements are made in: the observation ports (rule R38), runs, what holds in every
reachable state, passes and the records a pass is to emit (rules R12, R131, R137). -/

namespace Sys2Proof.Machine

variable {p : Params}

/-- The STATUS port (rules R34, R38). -/
def State.statusPort (s : State) : StatusWord := s.block.status

/-- The H port (rules R33, R38, R76). -/
def State.hPort (s : State) : BitVec 2 := s.block.h.enc

/-- `n` steps, stopping at the first fault or refusal. -/
def runFor : Nat → State → Host.Outcome State Fault Refusal
  | 0, s => .next s
  | n + 1, s =>
    match step s with
    | .next t => runFor n t
    | .fault f => .fault f
    | .refused r => .refused r

/-- Every pending host event is taken. -/
def runAll (s : State) : Host.Outcome State Fault Refusal := runFor s.input.length s

/-- STATUS bits 7 to 5 read 0 (rule R34). -/
abbrev Block.ReservedStatusZero (b : Block p) : Prop := b.status.extractLsb' 5 3 = 0

/-- In a pass the active configuration has passed the check of rule R105 (rule R104). -/
abbrev Block.ActiveConfigLegal (b : Block p) : Prop := b.has .active = true → cfgValid b.ac = true

/-- In a PAM3 pass H is 0 (rule R139). -/
abbrev Block.PamHZero (b : Block p) : Prop := b.has .active = true → b.ac.mode = modePam3 → b.h = .zero

/-- CFG_ERR and EMPTY are clear in a pass and never both set (rules R104, R107, R165). -/
abbrev Block.DiagnosticsExclusive (b : Block p) : Prop :=
  (b.has .active = true → b.has .cfgErr = false ∧ b.has .empty = false) ∧
    (b.has .cfgErr = true → b.has .empty = false)

/-- No record holds the symbol pattern 0b10 (rule R76). -/
abbrev Block.RecordsEncoded (b : Block p) : Prop := ∀ r ∈ b.out, r.s0 ≠ 0b10 ∧ r.s1 ≠ 0b10

/-- What every reachable block state satisfies. -/
structure Block.Inv (b : Block p) : Prop where
  reserved : b.ReservedStatusZero
  legal : b.ActiveConfigLegal
  pamH : b.PamHZero
  diagnostics : b.DiagnosticsExclusive
  records : b.RecordsEncoded

/-- What every reachable machine state satisfies. -/
structure State.Inv (s : State) : Prop where
  params : s.params.wellFormed
  block : s.block.Inv

/-- The event is a command that neither ends the pass nor resets the block. -/
def HostEvent.staysInPass : HostEvent p → Bool
  | .command c =>
    match decode c.cw with
    | .endPass _ => false
    | .nop _ => true
    | .cfgWrite _ => true
    | .start _ => true
    | .sample _ => true
    | .rsvd5 _ => true
    | .rsvd67 _ => true
  | .reset _ => false

/-- The operands of the event, if it is a SAMPLE command. -/
def HostEvent.sampleOperands : HostEvent p → Option (Operands p)
  | .command c =>
    match decode c.cw with
    | .sample _ => some c.operands
    | .nop _ => none
    | .cfgWrite _ => none
    | .start _ => none
    | .endPass _ => none
    | .rsvd5 _ => none
    | .rsvd67 _ => none
  | .reset _ => none

/-- The operands of the SAMPLE commands among the events, in order. -/
def samplesOf (es : List (HostEvent p)) : List (Operands p) := es.filterMap HostEvent.sampleOperands

/-- A START command, with any ignored address bits and operand values. -/
def startEvent (addr : CfgAddr) (o : Operands p) : HostEvent p :=
  .command { cw := encode (.start addr), operands := o }

/-- A SAMPLE command, with any ignored address bits. -/
def sampleEvent (addr : CfgAddr) (o : Operands p) : HostEvent p :=
  .command { cw := encode (.sample addr), operands := o }

/-- An END command, with any ignored address bits and operand values. -/
def endEvent (addr : CfgAddr) (o : Operands p) : HostEvent p :=
  .command { cw := encode (.endPass addr), operands := o }

/-- The symbols the TRI engine decides for a sequence of samples, from the symbol `h` (rules R131, R132). -/
def triSymbols {w : Nat} (ac : ConfigRegs w) : Symbol → List (BitVec w) → List Symbol
  | _, [] => []
  | h, v :: vs => triNext ac h (sint v) :: triSymbols ac (triNext ac h (sint v)) vs

/-- The symbol the TRI engine holds after a sequence of samples. -/
def triFinal {w : Nat} (ac : ConfigRegs w) : Symbol → List (BitVec w) → Symbol
  | h, [] => h
  | h, v :: vs => triFinal ac (triNext ac h (sint v)) vs

/-- The records a pass of configuration `ac` is to emit for its samples (rules R131, R137, R141): a function of
the two alone (rule R40). -/
def passRecords (ac : ConfigRegs p.sampleW) (samples : List (Operands p)) : List (Record p.tsW) :=
  if ac.mode = modePam3 then samples.map (pamRecord ac)
  else List.zipWith triRecord samples (triSymbols ac .zero (samples.map (·.si)))

/-- The error a command meets, if any, in the order of checks of rule R163: `op`, then the CFG_WRITE address,
then ACTIVE, then the configuration. -/
def errorOf (i : Instr) (b : Block p) : Option StatusBit :=
  match i with
  | .rsvd5 _ => some .illCmd
  | .rsvd67 _ => some .illCmd
  | .cfgWrite addr => if addr.toNat ≤ 8 then none else some .illCmd
  | .start _ => if b.has .active then some .seqErr else if cfgValid b.sh then none else some .cfgErr
  | .sample _ => if b.has .active then none else some .seqErr
  | .endPass _ => if b.has .active then none else some .seqErr
  | .nop _ => none

/-- The tolerance band of a symbol (rule R133): the codes that keep it. -/
def inBand {w : Nat} (ac : ConfigRegs w) (h : Symbol) (v : BitVec w) : Prop :=
  match h with
  | .zero => ac.enterLo.toInt ≤ v.toInt ∧ v.toInt ≤ ac.enterHi.toInt
  | .pos => ac.exitHi.toInt ≤ v.toInt
  | .neg => v.toInt ≤ ac.exitLo.toInt

/-- The ports a command reads in this state carry the same values (rules R71, R74, R75, R102): DATA for an
implemented CFG_WRITE (its two low bits for MODE), SI, OFS, DUR for a SAMPLE in a pass, SQ too in PAM3 mode. -/
def readPortsAgree (i : Instr) (b : Block p) (o o' : Operands p) : Prop :=
  match i with
  | .cfgWrite addr =>
    (addr.toNat = 0 → modeOperand o.data = modeOperand o'.data) ∧
      (1 ≤ addr.toNat → addr.toNat ≤ 8 → o.data = o'.data)
  | .sample _ =>
    b.has .active = true →
      o.si = o'.si ∧ o.ofs = o'.ofs ∧ o.dur = o'.dur ∧ (b.ac.mode = modePam3 → o.sq = o'.sq)
  | .nop _ => True
  | .start _ => True
  | .endPass _ => True
  | .rsvd5 _ => True
  | .rsvd67 _ => True

/-- The event is a CFG_WRITE to an implemented address (rule R101). -/
def HostEvent.isConfigWrite : HostEvent p → Bool
  | .command c =>
    match decode c.cw with
    | .cfgWrite addr => decide (addr.toNat ≤ 8)
    | .nop _ => false
    | .start _ => false
    | .sample _ => false
    | .endPass _ => false
    | .rsvd5 _ => false
    | .rsvd67 _ => false
  | .reset _ => false

/-- Two block states that differ at most in the shadow registers. -/
def agreeButShadow (b c : Block p) : Prop :=
  b.ac = c.ac ∧ b.h = c.h ∧ b.status = c.status ∧ b.seen = c.seen ∧ b.out = c.out

/-- The order duty of the host (rule R171 duty 8): the offsets never decrease. -/
def offsetsOrdered (offsets : List Nat) : Prop := List.Pairwise (· ≤ ·) offsets

end Sys2Proof.Machine
end

