-- ==== Sys2Proof/Certificates/Slice0/Obligations.lean ====
section
/-! DEFINITION. The statements about the block. Each docstring names the rules of spec/ it formalises. All are
over every parameter value `p` (rule R7) unless they say otherwise. -/

open Sys2Proof Sys2Proof.Machine

/-! Encoding. -/

/-- Rules R70, R72, R78: decoding inverts encoding for every command and every field value, and every one of the
128 words is the encoding of the command it decodes to. The last clause is about the byte form of a word, which no
rule gives: it is the model's choice (log entry 11), and reading a command's bytes gives the command back. -/
def Obligations.EncodeDecodeAgree : Prop :=
  (∀ i : Instr, i.wellFormed = true ∧ decode (encode i) = i) ∧
    (∀ w : CommandWord, encode (decode w) = w) ∧
    (∀ (i : Instr) (rest : List Byte), decodeBytes (encodeBytes i ++ rest) = .ok (i, rest))

/-- Rule R72, the opcode map: the ranges of words of each command, and the canonical words. -/
def Obligations.OpcodeMapWords : Prop :=
  (∀ a : CfgAddr,
    decode (BitVec.ofNat 7 (0x00 + a.toNat)) = .nop a ∧
    decode (BitVec.ofNat 7 (0x10 + a.toNat)) = .cfgWrite a ∧
    decode (BitVec.ofNat 7 (0x20 + a.toNat)) = .start a ∧
    decode (BitVec.ofNat 7 (0x30 + a.toNat)) = .sample a ∧
    decode (BitVec.ofNat 7 (0x40 + a.toNat)) = .endPass a ∧
    decode (BitVec.ofNat 7 (0x50 + a.toNat)) = .rsvd5 a) ∧
  (∀ l : BitVec 5, decode (BitVec.ofNat 7 (0x60 + l.toNat)) = .rsvd67 l) ∧
  encode (.nop 0) = 0x00 ∧ encode (.start 0) = 0x20 ∧ encode (.sample 0) = 0x30 ∧ encode (.endPass 0) = 0x40

/-- The byte form of a word is the model's choice (log entry 11): a byte above 0x7F and an empty sequence are
no command, every other byte is one. -/
def Obligations.ByteDecoderRejects : Prop :=
  decodeBytes [] = .error .noByte ∧
    (∀ (b : Byte) (rest : List Byte), 128 ≤ b.toNat → decodeBytes (b :: rest) = .error (.notACommandWord b)) ∧
    (∀ (b : Byte) (rest : List Byte), b.toNat < 128 → ∃ i, decodeBytes (b :: rest) = .ok (i, rest))

/-- Rule R73: `addr` is the register address of CFG_WRITE; for every other `op` two words of the same `op` act
alike in every state. -/
def Obligations.AddrFieldReadByConfigWriteOnly : Prop :=
  (∀ w : CommandWord, opField w = 1 → decode w = .cfgWrite (addrField w)) ∧
    (∀ (w v : CommandWord) (s : State), opField w = opField v → opField w ≠ 1 →
      exec (decode w) s = exec (decode v) s)

/-- Rule R76: the three encodings, read as two's complement, and the pattern 0b10 is none of them. -/
def Obligations.SymbolEncodings : Prop :=
  Symbol.zero.enc = 0b00 ∧ Symbol.pos.enc = 0b01 ∧ Symbol.neg.enc = 0b11 ∧
    (∀ s : Symbol, s.enc.toInt = s.value ∧ s.enc ≠ 0b10)

/-- Rule R82: the fields of a record word. -/
def Obligations.RecordWordFields : Prop :=
  ∀ (t : Nat) (r : Record t),
    (recordWord r).extractLsb' 0 2 = r.s0 ∧ (recordWord r).extractLsb' 2 2 = r.s1 ∧
      (recordWord r).extractLsb' 4 t = r.ofs ∧ (recordWord r).extractLsb' (4 + t) t = r.dur

/-! The step. -/

/-- Rules R13, R57, R70, R71: with a command pending, step runs the decoded command with its operands on the
ports and the event taken. -/
def Obligations.StepRunsDecodedCommand : Prop :=
  ∀ (p : Params) (b : Block p) (o : Operands p) (c : Command p) (es : List (HostEvent p)),
    (decode c.cw).wellFormed = true ∧
      step ⟨p, b, o, .command c :: es⟩ = exec (decode c.cw) ⟨p, b, c.operands, es⟩

/-- Rules R190 and R41: a reset event sets every piece of the block's state to its reset value; a command in
progress has no effect. That ports and later events stay is the model's choice (log entry 6). -/
def Obligations.ResetEventResetsTheBlock : Prop :=
  ∀ (p : Params) (b : Block p) (o : Operands p) (c : Option (Command p)) (es : List (HostEvent p)),
    step ⟨p, b, o, .reset c :: es⟩ =
      .next ⟨p, { sh := resetConfig p, ac := resetConfig p, h := .zero, status := 0x00, seen := false, out := [] },
        o, es⟩

/-- The model's choice (log entry 5): with no host event pending a step changes nothing. -/
def Obligations.StepWaitsForTheHost : Prop :=
  ∀ (p : Params) (b : Block p) (o : Operands p), step ⟨p, b, o, []⟩ = .next ⟨p, b, o, []⟩

/-! The control commands: the whole next state of each. -/

/-- Rule R100, encoding and effect: `op = 0b000` with any `addr`; nothing changes. -/
def Obligations.NopLeavesEverything : Prop :=
  (∀ a : CfgAddr, decode (0b000#3 ++ a) = .nop a) ∧
  ∀ (a : CfgAddr) (s : State), exec (.nop a) s = .next s

/-- Rule R101, encoding and effect: CFG_WRITE to each implemented address, in a pass or not; nothing else
changes. -/
def Obligations.ConfigWriteStoresRegister : Prop :=
  (∀ a : CfgAddr, decode (0b001#3 ++ a) = .cfgWrite a) ∧
  ∀ (p : Params) (b : Block p) (o : Operands p) (es : List (HostEvent p)),
    exec (.cfgWrite 0) ⟨p, b, o, es⟩ =
      .next ⟨p, { b with sh := { b.sh with mode := o.data.setWidth 2 } }, o, es⟩ ∧
    exec (.cfgWrite 1) ⟨p, b, o, es⟩ = .next ⟨p, { b with sh := { b.sh with enterHi := o.data } }, o, es⟩ ∧
    exec (.cfgWrite 2) ⟨p, b, o, es⟩ = .next ⟨p, { b with sh := { b.sh with exitHi := o.data } }, o, es⟩ ∧
    exec (.cfgWrite 3) ⟨p, b, o, es⟩ = .next ⟨p, { b with sh := { b.sh with exitLo := o.data } }, o, es⟩ ∧
    exec (.cfgWrite 4) ⟨p, b, o, es⟩ = .next ⟨p, { b with sh := { b.sh with enterLo := o.data } }, o, es⟩ ∧
    exec (.cfgWrite 5) ⟨p, b, o, es⟩ = .next ⟨p, { b with sh := { b.sh with iUpper := o.data } }, o, es⟩ ∧
    exec (.cfgWrite 6) ⟨p, b, o, es⟩ = .next ⟨p, { b with sh := { b.sh with iLower := o.data } }, o, es⟩ ∧
    exec (.cfgWrite 7) ⟨p, b, o, es⟩ = .next ⟨p, { b with sh := { b.sh with qUpper := o.data } }, o, es⟩ ∧
    exec (.cfgWrite 8) ⟨p, b, o, es⟩ = .next ⟨p, { b with sh := { b.sh with qLower := o.data } }, o, es⟩

/-- Rule R102, encoding and effect: CFG_WRITE to addresses 9 to 15 sets ILL_CMD (bit 4) and changes nothing
else. -/
def Obligations.ConfigWriteReservedAddress : Prop :=
  (∀ a : CfgAddr, decode (0b001#3 ++ a) = .cfgWrite a) ∧
  ∀ (p : Params) (b : Block p) (o : Operands p) (es : List (HostEvent p)) (addr : CfgAddr), 9 ≤ addr.toNat →
    exec (.cfgWrite addr) ⟨p, b, o, es⟩ = .next ⟨p, { b with status := b.status ||| 0x10 }, o, es⟩

/-- Rule R56: every configuration write is idempotent, reserved addresses included. -/
def Obligations.ConfigWriteIdempotent : Prop :=
  ∀ (addr : CfgAddr) (s : State),
    ∃ t, exec (.cfgWrite addr) s = .next t ∧ exec (.cfgWrite addr) t = .next t

/-- Rule R104, encoding and effect: START while idle clears CFG_ERR and EMPTY (bits 1 and 2), then is accepted
or rejected. -/
def Obligations.StartWhileIdle : Prop :=
  (∀ a : CfgAddr, decode (0b010#3 ++ a) = .start a) ∧
  ∀ (p : Params) (b : Block p) (o : Operands p) (es : List (HostEvent p)) (a : CfgAddr),
    b.status.getLsbD 0 = false →
    exec (.start a) ⟨p, b, o, es⟩ =
      if cfgValid b.sh then
        .next ⟨p, { b with ac := b.sh, h := .zero, seen := false, status := (b.status &&& 0xF9) ||| 0x01 }, o, es⟩
      else .next ⟨p, { b with status := (b.status &&& 0xF9) ||| 0x02 }, o, es⟩

/-- Rule R106, encoding and effect: START in a pass sets SEQ_ERR (bit 3) and changes nothing else. -/
def Obligations.StartInAPass : Prop :=
  (∀ a : CfgAddr, decode (0b010#3 ++ a) = .start a) ∧
  ∀ (p : Params) (b : Block p) (o : Operands p) (es : List (HostEvent p)) (a : CfgAddr),
    b.status.getLsbD 0 = true →
    exec (.start a) ⟨p, b, o, es⟩ = .next ⟨p, { b with status := b.status ||| 0x08 }, o, es⟩

/-- Rule R107, encoding and effect: END in a pass clears ACTIVE and sets EMPTY to `not SEEN`; H and all else
stay. -/
def Obligations.EndInAPass : Prop :=
  (∀ a : CfgAddr, decode (0b100#3 ++ a) = .endPass a) ∧
  ∀ (p : Params) (b : Block p) (o : Operands p) (es : List (HostEvent p)) (a : CfgAddr),
    b.status.getLsbD 0 = true →
    exec (.endPass a) ⟨p, b, o, es⟩ =
      .next ⟨p, { b with status := (b.status &&& 0xFA) ||| (if b.seen then 0x00 else 0x04) }, o, es⟩

/-- Rule R108, encoding and effect: END while idle sets SEQ_ERR and changes nothing else. -/
def Obligations.EndWhileIdle : Prop :=
  (∀ a : CfgAddr, decode (0b100#3 ++ a) = .endPass a) ∧
  ∀ (p : Params) (b : Block p) (o : Operands p) (es : List (HostEvent p)) (a : CfgAddr),
    b.status.getLsbD 0 = false →
    exec (.endPass a) ⟨p, b, o, es⟩ = .next ⟨p, { b with status := b.status ||| 0x08 }, o, es⟩

/-- Rule R109, encoding and effect: the reserved operations, both rows, set ILL_CMD and change nothing else, in
a pass or out. -/
def Obligations.ReservedOperations : Prop :=
  (∀ a : CfgAddr, decode (0b101#3 ++ a) = .rsvd5 a) ∧ (∀ l : BitVec 5, decode (0b11#2 ++ l) = .rsvd67 l) ∧
  ∀ (p : Params) (b : Block p) (o : Operands p) (es : List (HostEvent p)) (a : CfgAddr) (l : BitVec 5),
    exec (.rsvd5 a) ⟨p, b, o, es⟩ = .next ⟨p, { b with status := b.status ||| 0x10 }, o, es⟩ ∧
      exec (.rsvd67 l) ⟨p, b, o, es⟩ = .next ⟨p, { b with status := b.status ||| 0x10 }, o, es⟩

/-! The configuration check and the reset values. -/

/-- Rule R105: `cfg_valid`, its comparisons read in two's complement. -/
def Obligations.ConfigurationCheck : Prop :=
  ∀ (w : Nat) (R : ConfigRegs w),
    cfgValid R = true ↔
      (R.mode = 0 ∧ R.enterLo.toInt ≤ R.exitLo.toInt ∧ R.exitLo.toInt ≤ R.exitHi.toInt ∧
          R.exitHi.toInt ≤ R.enterHi.toInt) ∨
        (R.mode = 1 ∧ R.iLower.toInt ≤ R.iUpper.toInt ∧ R.qLower.toInt ≤ R.qUpper.toInt)

/-- Rule R31: the rounded quotient is a nearest integer, away from zero on a tie, and the register reads as that
integer clamped to the codes. -/
def Obligations.ConvRoundsAndSaturates : Prop :=
  ∀ (p : Params) (num : Int) (den : Nat), p.wellFormed → 0 < den →
    let a : Int := num * p.lsbDen
    let b : Int := den * p.lsbNum
    let n : Int := roundHalfAway (num * p.lsbDen) (den * p.lsbNum)
    2 * |b * n - a| ≤ b ∧ (2 * |b * n - a| = b → |a| < |b * n|) ∧
      (conv p num den).toInt =
        if n < -(2 ^ (p.sampleW - 1)) then -(2 ^ (p.sampleW - 1))
        else if 2 ^ (p.sampleW - 1) - 1 < n then 2 ^ (p.sampleW - 1) - 1 else n

/-- Rules R31 and R143: the reset configuration, and every profile of rule R143, pass the START check, at every
parameter value. -/
def Obligations.ProfilesAreLegal : Prop :=
  ∀ p : Params, p.wellFormed →
    cfgValid (resetConfig p) = true ∧ cfgValid (pam3Config p) = true ∧
      (∀ (num : Int) (den : Nat), 0 ≤ num → 0 < den → cfgValid (mlt3Config p num den) = true)

/-- Rule R41: every piece of state after reset, and the codes at `LSB_V = 0.001`, `SAMPLE_W = 16`. -/
def Obligations.ResetValues : Prop :=
  (∀ p : Params,
    (State.resetOf p).block.sh = (State.resetOf p).block.ac ∧
    (State.resetOf p).block.sh =
      { mode := 0, enterHi := conv p 6 10, exitHi := conv p 2 10, exitLo := conv p (-2) 10,
        enterLo := conv p (-6) 10, iUpper := conv p 4 10, iLower := conv p (-4) 10, qUpper := conv p 4 10,
        qLower := conv p (-4) 10 } ∧
    (State.resetOf p).block.h = .zero ∧ (State.resetOf p).block.status = 0x00 ∧
    (State.resetOf p).block.seen = false ∧ (State.resetOf p).block.out = []) ∧
  (∀ t : Nat,
    (resetConfig ⟨16, t, 1, 1000⟩).enterHi.toInt = 600 ∧ (resetConfig ⟨16, t, 1, 1000⟩).exitHi.toInt = 200 ∧
    (resetConfig ⟨16, t, 1, 1000⟩).exitLo.toInt = -200 ∧ (resetConfig ⟨16, t, 1, 1000⟩).enterLo.toInt = -600 ∧
    (resetConfig ⟨16, t, 1, 1000⟩).iUpper.toInt = 400 ∧ (resetConfig ⟨16, t, 1, 1000⟩).iLower.toInt = -400 ∧
    (resetConfig ⟨16, t, 1, 1000⟩).qUpper.toInt = 400 ∧ (resetConfig ⟨16, t, 1, 1000⟩).qLower.toInt = -400)

/-! SAMPLE. -/

/-- Rule R130, encoding and idle case: SAMPLE sets SEQ_ERR, emits nothing, changes nothing else. -/
def Obligations.SampleWhileIdle : Prop :=
  (∀ a : CfgAddr, decode (0b011#3 ++ a) = .sample a) ∧
  ∀ (p : Params) (b : Block p) (o : Operands p) (es : List (HostEvent p)) (a : CfgAddr),
    b.status.getLsbD 0 = false →
    exec (.sample a) ⟨p, b, o, es⟩ = .next ⟨p, { b with status := b.status ||| 0x08 }, o, es⟩

/-- Rule R131 (with R130): SAMPLE in a TRI pass sets SEEN, moves H to `tri_next`, and emits that symbol with
the SAMPLE's own offset and duration. -/
def Obligations.SampleInTriPass : Prop :=
  ∀ (p : Params) (b : Block p) (o : Operands p) (es : List (HostEvent p)) (a : CfgAddr),
    b.status.getLsbD 0 = true → b.ac.mode = 0 →
    exec (.sample a) ⟨p, b, o, es⟩ =
      .next ⟨p, { b with
        seen := true
        h := triNext b.ac b.h o.si.toInt
        out := b.out ++ [{ s0 := (triNext b.ac b.h o.si.toInt).enc, s1 := 0b00, ofs := o.ofs, dur := o.dur }] },
        o, es⟩

/-- Rule R137 (with R130): SAMPLE in a PAM3 pass sets SEEN and emits the two decisions; H stays. -/
def Obligations.SampleInPam3Pass : Prop :=
  ∀ (p : Params) (b : Block p) (o : Operands p) (es : List (HostEvent p)) (a : CfgAddr),
    b.status.getLsbD 0 = true → b.ac.mode = 1 →
    exec (.sample a) ⟨p, b, o, es⟩ =
      .next ⟨p, { b with
        seen := true
        out := b.out ++ [{
          s0 := (pamDec o.si.toInt b.ac.iUpper.toInt b.ac.iLower.toInt).enc
          s1 := (pamDec o.sq.toInt b.ac.qUpper.toInt b.ac.qLower.toInt).enc
          ofs := o.ofs
          dur := o.dur }] },
        o, es⟩

/-- The model's choice (log entry 8), in states that no run reaches: SAMPLE in a pass whose active mode is
reserved stops, the one stop of the model. -/
def Obligations.SampleStopsOnReservedActiveMode : Prop :=
  ∀ (p : Params) (b : Block p) (o : Operands p) (es : List (HostEvent p)) (a : CfgAddr),
    b.status.getLsbD 0 = true → (b.ac.mode = 2 ∨ b.ac.mode = 3) →
    exec (.sample a) ⟨p, b, o, es⟩ = .fault .activeModeReserved

/-- Rules R132 and R133: the transition table over the five ranges of a code under a legal TRI configuration,
and the one shared code when `EXIT_LO = EXIT_HI`. -/
def Obligations.TriTransitionTable : Prop :=
  ∀ (w : Nat) (ac : ConfigRegs w) (v : Int), cfgValid ac = true → ac.mode = 0 →
    ((ac.exitLo.toInt < ac.exitHi.toInt ∨ v ≠ ac.exitHi.toInt) →
      (v > ac.enterHi.toInt → ∀ h, triNext ac h v = .pos) ∧
      (ac.exitHi.toInt ≤ v → v ≤ ac.enterHi.toInt →
        triNext ac .zero v = .zero ∧ triNext ac .pos v = .pos ∧ triNext ac .neg v = .zero) ∧
      (ac.exitLo.toInt < v → v < ac.exitHi.toInt → ∀ h, triNext ac h v = .zero) ∧
      (ac.enterLo.toInt ≤ v → v ≤ ac.exitLo.toInt →
        triNext ac .zero v = .zero ∧ triNext ac .pos v = .zero ∧ triNext ac .neg v = .neg) ∧
      (v < ac.enterLo.toInt → ∀ h, triNext ac h v = .neg)) ∧
    (ac.exitLo.toInt = ac.exitHi.toInt → v = ac.exitHi.toInt → ∀ h, triNext ac h v = h)

/-- Rule R133: a SAMPLE of a TRI pass changes H exactly when its code is outside the band of the current H. -/
def Obligations.HysteresisChangesOutsideBand : Prop :=
  ∀ (p : Params) (b : Block p) (o : Operands p) (es : List (HostEvent p)) (a : CfgAddr),
    b.status.getLsbD 0 = true → b.ac.mode = 0 →
    ∃ b', exec (.sample a) ⟨p, b, o, es⟩ = .next ⟨p, b', o, es⟩ ∧ (b'.h = b.h ↔ inBand b.ac b.h o.si)

/-- Rule R134: full swings go straight to the opposite symbol, in H and in the record. -/
def Obligations.DirectFullSwing : Prop :=
  ∀ (p : Params) (b : Block p) (o : Operands p) (es : List (HostEvent p)) (a : CfgAddr),
    b.status.getLsbD 0 = true → b.ac.mode = 0 → cfgValid b.ac = true →
    ∃ b' r, exec (.sample a) ⟨p, b, o, es⟩ = .next ⟨p, b', o, es⟩ ∧ b'.out = b.out ++ [r] ∧
      (b.h = .pos → o.si.toInt < b.ac.enterLo.toInt → b'.h = .neg ∧ r.s0 = 0b11) ∧
      (b.h = .neg → o.si.toInt > b.ac.enterHi.toInt → b'.h = .pos ∧ r.s0 = 0b01)

/-- Rule R135: what TRI passes never produce at the extreme threshold values, and with all thresholds equal;
and the sample equal to a threshold. -/
def Obligations.TriThresholdCorners : Prop :=
  ∀ (w : Nat) (ac : ConfigRegs w), cfgValid ac = true → ac.mode = 0 →
    (triNext ac .zero ac.enterHi.toInt = .zero ∧ triNext ac .pos ac.exitHi.toInt = .pos ∧
      triNext ac .neg ac.exitLo.toInt = .neg ∧ triNext ac .zero ac.enterLo.toInt = .zero) ∧
    (ac.enterHi.toInt = maxCode w → ∀ vs, Symbol.pos ∉ triSymbols ac .zero vs) ∧
    (ac.enterLo.toInt = minCode w → ∀ vs, Symbol.neg ∉ triSymbols ac .zero vs) ∧
    (ac.exitHi.toInt = minCode w → ∀ vs s, s ∈ triSymbols ac .pos vs → s = .pos) ∧
    (ac.enterHi.toInt = ac.enterLo.toInt →
      ∀ h v vs, v ≠ ac.enterHi → Symbol.zero ∉ triSymbols ac h (v :: vs))

/-- Rules R2 and R133: samples that all stay in the band of the current H keep it, however many they are, and
each is emitted as that symbol. -/
def Obligations.HysteresisHoldsInBand : Prop :=
  ∀ (p : Params) (b : Block p) (o : Operands p) (samples : List (CfgAddr × Operands p)),
    b.status.getLsbD 0 = true → b.ac.mode = 0 → (∀ x ∈ samples, inBand b.ac b.h x.2.si) →
    ∃ b' o', runAll ⟨p, b, o, samples.map (fun x => sampleEvent x.1 x.2)⟩ = .next ⟨p, b', o', []⟩ ∧ b'.h = b.h ∧
      b'.out = b.out ++ samples.map (fun x => { s0 := b.h.enc, s1 := 0b00, ofs := x.2.ofs, dur := x.2.dur })

/-- Rule R136: no fixed number of last samples decides the symbol. Under every legal TRI configuration that can
produce +1, for every `n` there are two passes whose last `n` samples agree and whose last symbols differ. -/
def Obligations.NoFiniteLookBehind : Prop :=
  ∀ (w : Nat) (ac : ConfigRegs w), cfgValid ac = true → ac.mode = 0 → ac.enterHi.toInt < maxCode w →
    ∀ n : Nat, ∃ pre pre' last : List (BitVec w), last.length = n ∧
      triFinal ac .zero (pre ++ last) ≠ triFinal ac .zero (pre' ++ last)

/-- Rule R138: the PAM3 decision with both ends of the interval decoding to 0. -/
def Obligations.Pam3Decision : Prop :=
  ∀ v up lo : Int,
    (pamDec v up lo = .pos ↔ v > up) ∧ (pamDec v up lo = .neg ↔ v ≤ up ∧ v < lo) ∧
      (pamDec v up lo = .zero ↔ lo ≤ v ∧ v ≤ up) ∧
      (lo ≤ up → (pamDec v up lo = .neg ↔ v < lo))

/-- Rule R139: the I symbol depends on SI and the I thresholds alone, the Q symbol on SQ and the Q thresholds
alone, in any two PAM3 passes, and H is not touched. -/
def Obligations.Pam3AxesIndependent : Prop :=
  ∀ (p : Params) (b c : Block p) (o q : Operands p) (es fs : List (HostEvent p)) (a a' : CfgAddr),
    b.status.getLsbD 0 = true → b.ac.mode = 1 → c.status.getLsbD 0 = true → c.ac.mode = 1 →
    ∃ b' c' r t, exec (.sample a) ⟨p, b, o, es⟩ = .next ⟨p, b', o, es⟩ ∧
      exec (.sample a') ⟨p, c, q, fs⟩ = .next ⟨p, c', q, fs⟩ ∧
      b'.out = b.out ++ [r] ∧ c'.out = c.out ++ [t] ∧ b'.h = b.h ∧ c'.h = c.h ∧
      (o.si = q.si → b.ac.iUpper = c.ac.iUpper → b.ac.iLower = c.ac.iLower → r.s0 = t.s0) ∧
      (o.sq = q.sq → b.ac.qUpper = c.ac.qUpper → b.ac.qLower = c.ac.qLower → r.s1 = t.s1)

/-- Rule R140: all nine constellation points can be produced, at every sample width. -/
def Obligations.Pam3NinePoints : Prop :=
  ∀ p : Params, p.wellFormed →
    ∃ ac : ConfigRegs p.sampleW, cfgValid ac = true ∧ ac.mode = 1 ∧
      ∀ i q : Symbol, ∃ o : Operands p, (pamRecord ac o).s0 = i.enc ∧ (pamRecord ac o).s1 = q.enc

/-- Rules R71, R74, R75, R102: a command's effect depends on no port it does not read. -/
def Obligations.UnreadPortsIgnored : Prop :=
  ∀ (p : Params) (b b' : Block p) (o o' : Operands p) (es : List (HostEvent p)) (i : Instr),
    readPortsAgree i b o o' → exec i ⟨p, b, o, es⟩ = .next ⟨p, b', o, es⟩ →
    exec i ⟨p, b, o', es⟩ = .next ⟨p, b', o', es⟩

/-! Rules of the whole machine. -/

/-- The invariant holds right after reset, at every parameter value and at `State.reset`. -/
def Obligations.InvariantAtReset : Prop :=
  (∀ p : Params, p.wellFormed → (State.resetOf p).Inv) ∧ State.reset.Inv

/-- Rules R34, R76, R104, R107, R139: every step keeps the invariant (reserved STATUS bits 0, a legal active
configuration in a pass, H = 0 in a PAM3 pass, CFG_ERR and EMPTY clear in a pass and never both set, no record
with 0b10). -/
def Obligations.EveryStepKeepsInvariant : Prop :=
  ∀ s t : State, s.Inv → step s = .next t → t.Inv

/-- Rules R13, R78, R160: every one of the 128 words, with any operand values, has a next state, whenever the
active configuration of a pass is legal. -/
def Obligations.EveryWordCompletes : Prop :=
  ∀ (p : Params) (b : Block p) (o : Operands p) (es : List (HostEvent p)) (w : CommandWord),
    b.ActiveConfigLegal → ∃ b', exec (decode w) ⟨p, b, o, es⟩ = .next ⟨p, b', o, es⟩

/-- Rules R78, R110, R160: every sequence of host events runs to its end from every state of the invariant, and
so from reset, and leaves the invariant. -/
def Obligations.EveryRunCompletes : Prop :=
  ∀ (p : Params) (b : Block p) (o : Operands p) (es : List (HostEvent p)), p.wellFormed → b.Inv →
    ∃ b' o', runAll ⟨p, b, o, es⟩ = .next ⟨p, b', o', []⟩ ∧ b'.Inv

/-- Rules R34, R165, R191: no command clears SEQ_ERR or ILL_CMD; a reset event clears both. -/
def Obligations.StickyBitsClearedByResetOnly : Prop :=
  ∀ (p : Params) (b b' : Block p) (o o' : Operands p) (es es' : List (HostEvent p)),
    (∀ c : Command p, step ⟨p, b, o, .command c :: es⟩ = .next ⟨p, b', o', es'⟩ →
      (b.status.getLsbD 3 = true → b'.status.getLsbD 3 = true) ∧
        (b.status.getLsbD 4 = true → b'.status.getLsbD 4 = true)) ∧
    (∀ c : Option (Command p), step ⟨p, b, o, .reset c :: es⟩ = .next ⟨p, b', o', es'⟩ →
      b'.status.getLsbD 3 = false ∧ b'.status.getLsbD 4 = false)

/-- Rules R21, R32, R33, R34, R35, R37: which commands can change each piece of state, every bit of STATUS by the
table of rule R34 (bits 7 to 5 change by none); the parameters, the ports and the host's events are changed by
none. -/
def Obligations.StateWrittenByItsCommandsOnly : Prop :=
  ∀ (p : Params) (b : Block p) (o : Operands p) (es : List (HostEvent p)) (i : Instr) (t : State),
    exec i ⟨p, b, o, es⟩ = .next t →
    ∃ b', t = ⟨p, b', o, es⟩ ∧
      (b'.sh ≠ b.sh → ∃ a, i = .cfgWrite a) ∧
      (b'.ac ≠ b.ac → ∃ a, i = .start a) ∧
      (b'.h ≠ b.h → (∃ a, i = .start a) ∨ ∃ a, i = .sample a) ∧
      (b'.seen ≠ b.seen → (∃ a, i = .start a) ∨ ∃ a, i = .sample a) ∧
      (b'.out ≠ b.out → ∃ a, i = .sample a) ∧
      (b'.status.getLsbD 0 ≠ b.status.getLsbD 0 → (∃ a, i = .start a) ∨ ∃ a, i = .endPass a) ∧
      (b'.status.getLsbD 1 ≠ b.status.getLsbD 1 → ∃ a, i = .start a) ∧
      (b'.status.getLsbD 2 ≠ b.status.getLsbD 2 → (∃ a, i = .start a) ∨ ∃ a, i = .endPass a) ∧
      (b'.status.getLsbD 3 ≠ b.status.getLsbD 3 →
        (∃ a, i = .start a) ∨ (∃ a, i = .sample a) ∨ ∃ a, i = .endPass a) ∧
      (b'.status.getLsbD 4 ≠ b.status.getLsbD 4 →
        (∃ a, i = .cfgWrite a) ∨ (∃ a, i = .rsvd5 a) ∨ ∃ l, i = .rsvd67 l) ∧
      b'.status.extractLsb' 5 3 = b.status.extractLsb' 5 3

/-- Rules R37 and R141: a SAMPLE in a pass appends exactly one record, with its own offset and duration bit for
bit; no other command appends one. -/
def Obligations.OneRecordPerSampleInAPass : Prop :=
  ∀ (p : Params) (b b' : Block p) (o : Operands p) (es : List (HostEvent p)) (i : Instr),
    exec i ⟨p, b, o, es⟩ = .next ⟨p, b', o, es⟩ →
    ((∃ a, i = .sample a) ∧ b.status.getLsbD 0 = true →
      ∃ r, b'.out = b.out ++ [r] ∧ r.ofs = o.ofs ∧ r.dur = o.dur) ∧
    (¬((∃ a, i = .sample a) ∧ b.status.getLsbD 0 = true) → b'.out = b.out)

/-- Rules R160, R161, R163, R164: a command that meets an error, by the order of checks of rule R163, sets that
one bit and changes nothing else (START rejected also clears EMPTY, rule R104, log entry 10); a command that
meets none sets no error bit. -/
def Obligations.ErrorsArePrecise : Prop :=
  ∀ (p : Params) (b : Block p) (o : Operands p) (es : List (HostEvent p)) (i : Instr),
    (errorOf i b = some .illCmd →
      exec i ⟨p, b, o, es⟩ = .next ⟨p, { b with status := b.status ||| 0x10 }, o, es⟩) ∧
    (errorOf i b = some .seqErr →
      exec i ⟨p, b, o, es⟩ = .next ⟨p, { b with status := b.status ||| 0x08 }, o, es⟩) ∧
    (errorOf i b = some .cfgErr →
      exec i ⟨p, b, o, es⟩ = .next ⟨p, { b with status := (b.status &&& 0xFB) ||| 0x02 }, o, es⟩) ∧
    (errorOf i b = none → ∀ b', exec i ⟨p, b, o, es⟩ = .next ⟨p, b', o, es⟩ →
      (b'.status.getLsbD 1 = true → b.status.getLsbD 1 = true) ∧
      (b'.status.getLsbD 3 = b.status.getLsbD 3) ∧ (b'.status.getLsbD 4 = b.status.getLsbD 4))

/-! Passes. -/

/-- Rules R12, R104, R107, R131, R137: a whole pass. An accepted START, any events that neither end the pass nor
reset the block, and END run to their end; the records emitted are those of the latched configuration for the
SAMPLE operands in order, the latched configuration stays active, H ends as the last decided symbol (0 in
PAM3), ACTIVE is clear and EMPTY says that there was no SAMPLE. -/
def Obligations.PassEmitsItsRecords : Prop :=
  ∀ (p : Params) (b : Block p) (o o₁ o₂ : Operands p) (a₁ a₂ : CfgAddr) (es : List (HostEvent p)),
    b.status.getLsbD 0 = false → cfgValid b.sh = true → es.all HostEvent.staysInPass = true →
    ∃ b', runAll ⟨p, b, o, startEvent a₁ o₁ :: (es ++ [endEvent a₂ o₂])⟩ = .next ⟨p, b', o₂, []⟩ ∧
      b'.out = b.out ++ passRecords b.sh (samplesOf es) ∧
      b'.ac = b.sh ∧
      b'.h = (if b.sh.mode = 1 then .zero else triFinal b.sh .zero ((samplesOf es).map (·.si))) ∧
      b'.status.getLsbD 0 = false ∧ b'.status.getLsbD 2 = (samplesOf es).isEmpty

/-- Rules R40 and R142: two passes that latch the same configuration, and whose SAMPLE commands agree in SI, OFS
and DUR, and in PAM3 mode in SQ, emit the same records, whatever stands on the other ports, whatever the two
states were before and whatever else the hosts issued between the samples. -/
def Obligations.PassesAreDeterministic : Prop :=
  ∀ (p : Params) (b c : Block p) (o o₁ o₂ q q₁ q₂ : Operands p) (a₁ a₂ d₁ d₂ : CfgAddr)
    (es fs : List (HostEvent p)),
    b.status.getLsbD 0 = false → c.status.getLsbD 0 = false → b.sh = c.sh → cfgValid b.sh = true →
    es.all HostEvent.staysInPass = true → fs.all HostEvent.staysInPass = true →
    (samplesOf es).map (fun x => (x.si, x.ofs, x.dur)) = (samplesOf fs).map (fun x => (x.si, x.ofs, x.dur)) →
    (b.sh.mode = 1 → (samplesOf es).map (·.sq) = (samplesOf fs).map (·.sq)) →
    ∃ b' c' rs, runAll ⟨p, b, o, startEvent a₁ o₁ :: (es ++ [endEvent a₂ o₂])⟩ = .next ⟨p, b', o₂, []⟩ ∧
      runAll ⟨p, c, q, startEvent d₁ q₁ :: (fs ++ [endEvent d₂ q₂])⟩ = .next ⟨p, c', q₂, []⟩ ∧
      b'.out = b.out ++ rs ∧ c'.out = c.out ++ rs ∧ b'.h = c'.h

/-- Rules R57, R58 and R141: over any in-pass events the offsets of the records emitted are those of the
samples, in order, so they never decrease when the host's do not. -/
def Obligations.OffsetsStayOrdered : Prop :=
  ∀ (p : Params) (b : Block p) (o : Operands p) (es : List (HostEvent p)),
    b.status.getLsbD 0 = true → b.ActiveConfigLegal → es.all HostEvent.staysInPass = true →
    ∃ b' o' rs, runAll ⟨p, b, o, es⟩ = .next ⟨p, b', o', []⟩ ∧ b'.out = b.out ++ rs ∧
      rs.map (·.ofs) = (samplesOf es).map (·.ofs) ∧ rs.map (·.dur) = (samplesOf es).map (·.dur) ∧
      (offsetsOrdered ((samplesOf es).map (·.ofs.toNat)) → offsetsOrdered (rs.map (·.ofs.toNat)))

/-- Rules R60 and R103: configuration writes inside a pass change no decision of it. A run of in-pass events and
the same run without its implemented CFG_WRITEs end in states that differ at most in the shadow registers. -/
def Obligations.ConfigWritesDoNotTouchThePass : Prop :=
  ∀ (p : Params) (b : Block p) (o : Operands p) (es : List (HostEvent p)),
    b.status.getLsbD 0 = true → b.ActiveConfigLegal → es.all HostEvent.staysInPass = true →
    ∃ b' c' o' q', runAll ⟨p, b, o, es⟩ = .next ⟨p, b', o', []⟩ ∧
      runAll ⟨p, b, o, es.filter (fun e => !e.isConfigWrite)⟩ = .next ⟨p, c', q', []⟩ ∧ agreeButShadow b' c'

/-- Rule R196: after a rejected START every SAMPLE only sets SEQ_ERR and emits nothing. -/
def Obligations.RejectedStartEmitsNothing : Prop :=
  ∀ (p : Params) (b : Block p) (o o₁ : Operands p) (a : CfgAddr) (samples : List (CfgAddr × Operands p)),
    b.status.getLsbD 0 = false → cfgValid b.sh = false → samples ≠ [] →
    ∃ o', runAll ⟨p, b, o, startEvent a o₁ :: samples.map (fun x => sampleEvent x.1 x.2)⟩ =
      .next ⟨p, { b with status := (b.status &&& 0xF9) ||| 0x0A }, o', []⟩

/-! The assembler, and several instances. -/

/-- Rule R80: the command of each form, and the ranges outside which the assembler refuses. Two things are the
model's choice (log entry 14): the ports that the table of rule R80 gives no value (all five of `nop`, `start` and
`end`, all but DATA of `cfgw`, DATA of `sample`) carry 0, and `cfgw` of a reserved register `r9` to `r15`, for which
the rule states no range, takes every integer. -/
def Obligations.AssemblerForms : Prop :=
  ∀ (p : Params),
    Asm.nop.assemble p = .ok ⟨0x00, zeroOperands p⟩ ∧ Asm.start.assemble p = .ok ⟨0x20, zeroOperands p⟩ ∧
    Asm.endPass.assemble p = .ok ⟨0x40, zeroOperands p⟩ ∧
    (∀ (r : CfgReg) (v : Int),
      Asm.assemble p (.cfgw (cfgAddrOf r) v) =
        if (r = .mode ∧ 0 ≤ v ∧ v ≤ 3) ∨ (r ≠ .mode ∧ minCode p.sampleW ≤ v ∧ v ≤ maxCode p.sampleW) then
          .ok ⟨BitVec.ofNat 7 (0x10 + (cfgAddrOf r).toNat), { zeroOperands p with data := BitVec.ofInt _ v }⟩
        else .error .outOfRange) ∧
    (∀ (addr : CfgAddr) (v : Int), 9 ≤ addr.toNat →
      Asm.assemble p (.cfgw addr v) =
        .ok ⟨BitVec.ofNat 7 (0x10 + addr.toNat), { zeroOperands p with data := BitVec.ofInt _ v }⟩) ∧
    (∀ si sq ofs dur : Int,
      Asm.assemble p (.sample si sq ofs dur) =
        if (minCode p.sampleW ≤ si ∧ si ≤ maxCode p.sampleW) ∧ (minCode p.sampleW ≤ sq ∧ sq ≤ maxCode p.sampleW) ∧
            (0 ≤ ofs ∧ ofs < 2 ^ p.tsW) ∧ (0 ≤ dur ∧ dur < 2 ^ p.tsW) then
          .ok ⟨0x30, { zeroOperands p with
            si := BitVec.ofInt _ si, sq := BitVec.ofInt _ sq, ofs := BitVec.ofInt _ ofs, dur := BitVec.ofInt _ dur }⟩
        else .error .outOfRange) ∧
    (∀ si ofs dur : Int,
      Asm.assemble p (.sampleTri si ofs dur) =
        if (minCode p.sampleW ≤ si ∧ si ≤ maxCode p.sampleW) ∧ (0 ≤ ofs ∧ ofs < 2 ^ p.tsW) ∧
            (0 ≤ dur ∧ dur < 2 ^ p.tsW) then
          .ok ⟨0x30, { zeroOperands p with
            si := BitVec.ofInt _ si, ofs := BitVec.ofInt _ ofs, dur := BitVec.ofInt _ dur }⟩
        else .error .outOfRange) ∧
    (∀ n : Int, Asm.assemble p (.cw n) =
      if 0 ≤ n ∧ n ≤ 127 then .ok ⟨BitVec.ofInt 7 n, zeroOperands p⟩ else .error .outOfRange)

/-- Rules R81 and R143: the commands of `mlt3 t` run from any state and leave the MLT-3 thresholds in the shadow
registers, nothing else changed; in TRI mode the next START accepts them. -/
def Obligations.Mlt3PseudoSetsItsProfile : Prop :=
  ∀ (p : Params) (b : Block p) (o : Operands p) (t : Int), p.wellFormed → 0 ≤ t → t ≤ maxCode p.sampleW →
    ∃ cs o', assembleAll p (Pseudo.mlt3 t).expand = .ok cs ∧
      runAll ⟨p, b, o, cs.map .command⟩ =
        .next ⟨p, { b with sh := { b.sh with
          enterHi := BitVec.ofInt _ t
          exitHi := BitVec.ofInt _ t
          exitLo := BitVec.ofInt _ (-t)
          enterLo := BitVec.ofInt _ (-t) } }, o', []⟩ ∧
      (b.sh.mode = 0 → cfgValid { b.sh with
          enterHi := BitVec.ofInt p.sampleW t
          exitHi := BitVec.ofInt _ t
          exitLo := BitVec.ofInt _ (-t)
          enterLo := BitVec.ofInt _ (-t) } = true)

/-- Rules R39 and R169: a step of one instance is that machine's own step and changes no other instance. -/
def Obligations.InstancesShareNoState : Prop :=
  ∀ (k : Nat) (instances : List State) (s t : State), instances[k]? = some s → step s = .next t →
    ∃ after, stepInstance k instances = .next after ∧ after[k]? = some t ∧
      after.length = instances.length ∧ ∀ j, j ≠ k → after[j]? = instances[j]?
end

