-- ==== Sys2Proof/Laws/State.lean ====
section
/-! SUPPORT. One lemma per field per update of the block and of the machine, all true by `rfl`. -/

namespace Sys2Proof.Machine

variable {p : Params}

@[simp] theorem putStatus_sh (b : Block p) (f : StatusBit) (v : Bool) : (b.putStatus f v).sh = b.sh := rfl
@[simp] theorem putStatus_ac (b : Block p) (f : StatusBit) (v : Bool) : (b.putStatus f v).ac = b.ac := rfl
@[simp] theorem putStatus_h (b : Block p) (f : StatusBit) (v : Bool) : (b.putStatus f v).h = b.h := rfl
@[simp] theorem putStatus_status (b : Block p) (f : StatusBit) (v : Bool) :
    (b.putStatus f v).status = writeStatus b.status f v := rfl
@[simp] theorem putStatus_seen (b : Block p) (f : StatusBit) (v : Bool) : (b.putStatus f v).seen = b.seen := rfl
@[simp] theorem putStatus_out (b : Block p) (f : StatusBit) (v : Bool) : (b.putStatus f v).out = b.out := rfl

@[simp] theorem flag_sh (b : Block p) (f : StatusBit) : (b.flag f).sh = b.sh := rfl
@[simp] theorem flag_ac (b : Block p) (f : StatusBit) : (b.flag f).ac = b.ac := rfl
@[simp] theorem flag_h (b : Block p) (f : StatusBit) : (b.flag f).h = b.h := rfl
@[simp] theorem flag_status (b : Block p) (f : StatusBit) : (b.flag f).status = writeStatus b.status f true := rfl
@[simp] theorem flag_seen (b : Block p) (f : StatusBit) : (b.flag f).seen = b.seen := rfl
@[simp] theorem flag_out (b : Block p) (f : StatusBit) : (b.flag f).out = b.out := rfl

@[simp] theorem writeShadow_sh (b : Block p) (r : CfgReg) (d : BitVec p.sampleW) :
    (b.writeShadow r d).sh = writeReg b.sh r d := rfl
@[simp] theorem writeShadow_ac (b : Block p) (r : CfgReg) (d : BitVec p.sampleW) :
    (b.writeShadow r d).ac = b.ac := rfl
@[simp] theorem writeShadow_h (b : Block p) (r : CfgReg) (d : BitVec p.sampleW) :
    (b.writeShadow r d).h = b.h := rfl
@[simp] theorem writeShadow_status (b : Block p) (r : CfgReg) (d : BitVec p.sampleW) :
    (b.writeShadow r d).status = b.status := rfl
@[simp] theorem writeShadow_seen (b : Block p) (r : CfgReg) (d : BitVec p.sampleW) :
    (b.writeShadow r d).seen = b.seen := rfl
@[simp] theorem writeShadow_out (b : Block p) (r : CfgReg) (d : BitVec p.sampleW) :
    (b.writeShadow r d).out = b.out := rfl

@[simp] theorem latch_sh (b : Block p) : b.latch.sh = b.sh := rfl
@[simp] theorem latch_ac (b : Block p) : b.latch.ac = b.sh := rfl
@[simp] theorem latch_h (b : Block p) : b.latch.h = b.h := rfl
@[simp] theorem latch_status (b : Block p) : b.latch.status = b.status := rfl
@[simp] theorem latch_seen (b : Block p) : b.latch.seen = b.seen := rfl
@[simp] theorem latch_out (b : Block p) : b.latch.out = b.out := rfl

@[simp] theorem putH_sh (b : Block p) (s : Symbol) : (b.putH s).sh = b.sh := rfl
@[simp] theorem putH_ac (b : Block p) (s : Symbol) : (b.putH s).ac = b.ac := rfl
@[simp] theorem putH_h (b : Block p) (s : Symbol) : (b.putH s).h = s := rfl
@[simp] theorem putH_status (b : Block p) (s : Symbol) : (b.putH s).status = b.status := rfl
@[simp] theorem putH_seen (b : Block p) (s : Symbol) : (b.putH s).seen = b.seen := rfl
@[simp] theorem putH_out (b : Block p) (s : Symbol) : (b.putH s).out = b.out := rfl

@[simp] theorem putSeen_sh (b : Block p) (v : Bool) : (b.putSeen v).sh = b.sh := rfl
@[simp] theorem putSeen_ac (b : Block p) (v : Bool) : (b.putSeen v).ac = b.ac := rfl
@[simp] theorem putSeen_h (b : Block p) (v : Bool) : (b.putSeen v).h = b.h := rfl
@[simp] theorem putSeen_status (b : Block p) (v : Bool) : (b.putSeen v).status = b.status := rfl
@[simp] theorem putSeen_seen (b : Block p) (v : Bool) : (b.putSeen v).seen = v := rfl
@[simp] theorem putSeen_out (b : Block p) (v : Bool) : (b.putSeen v).out = b.out := rfl

@[simp] theorem emit_sh (b : Block p) (r : Record p.tsW) : (b.emit r).sh = b.sh := rfl
@[simp] theorem emit_ac (b : Block p) (r : Record p.tsW) : (b.emit r).ac = b.ac := rfl
@[simp] theorem emit_h (b : Block p) (r : Record p.tsW) : (b.emit r).h = b.h := rfl
@[simp] theorem emit_status (b : Block p) (r : Record p.tsW) : (b.emit r).status = b.status := rfl
@[simp] theorem emit_seen (b : Block p) (r : Record p.tsW) : (b.emit r).seen = b.seen := rfl
@[simp] theorem emit_out (b : Block p) (r : Record p.tsW) : (b.emit r).out = b.out ++ [r] := rfl

@[simp] theorem applyReset_sh (b : Block p) : b.applyReset.sh = resetConfig p := rfl
@[simp] theorem applyReset_ac (b : Block p) : b.applyReset.ac = resetConfig p := rfl
@[simp] theorem applyReset_h (b : Block p) : b.applyReset.h = .zero := rfl
@[simp] theorem applyReset_status (b : Block p) : b.applyReset.status = 0 := rfl
@[simp] theorem applyReset_seen (b : Block p) : b.applyReset.seen = false := rfl
@[simp] theorem applyReset_out (b : Block p) : b.applyReset.out = [] := rfl

@[simp] theorem withBlock_params (s : State) (b : Block s.params) : (s.withBlock b).params = s.params := rfl
@[simp] theorem withBlock_block (s : State) (b : Block s.params) : (s.withBlock b).block = b := rfl
@[simp] theorem withBlock_ports (s : State) (b : Block s.params) : (s.withBlock b).ports = s.ports := rfl
@[simp] theorem withBlock_input (s : State) (b : Block s.params) : (s.withBlock b).input = s.input := rfl
@[simp] theorem withBlock_mk (b b' : Block p) (o : Operands p) (es : List (HostEvent p)) :
    State.withBlock { params := p, block := b, ports := o, input := es } b' =
      { params := p, block := b', ports := o, input := es } := rfl

@[simp] theorem present_params (s : State) (o : Operands s.params) (es : List (HostEvent s.params)) :
    (s.present o es).params = s.params := rfl
@[simp] theorem present_block (s : State) (o : Operands s.params) (es : List (HostEvent s.params)) :
    (s.present o es).block = s.block := rfl
@[simp] theorem present_ports (s : State) (o : Operands s.params) (es : List (HostEvent s.params)) :
    (s.present o es).ports = o := rfl
@[simp] theorem present_input (s : State) (o : Operands s.params) (es : List (HostEvent s.params)) :
    (s.present o es).input = es := rfl

@[simp] theorem afterReset_params (s : State) (es : List (HostEvent s.params)) :
    (s.afterReset es).params = s.params := rfl
@[simp] theorem afterReset_block (s : State) (es : List (HostEvent s.params)) :
    (s.afterReset es).block = resetBlock s.params := rfl
@[simp] theorem afterReset_ports (s : State) (es : List (HostEvent s.params)) :
    (s.afterReset es).ports = s.ports := rfl
@[simp] theorem afterReset_input (s : State) (es : List (HostEvent s.params)) :
    (s.afterReset es).input = es := rfl

end Sys2Proof.Machine
end

