-- ==== Sys2Proof/Laws/Flags.lean ====
section
/-! SUPPORT. The laws of the STATUS bits: what a write leaves in the bit, in the other bits, in bits 7 to 5. -/

namespace Sys2Proof.Machine

variable {p : Params}

theorem readStatus_writeStatus_same (w : StatusWord) (f : StatusBit) (v : Bool) :
    readStatus (writeStatus w f v) f = v := by
  cases f <;> cases v <;> simp [readStatus, writeStatus, StatusBit.index, StatusBit.mask]

theorem readStatus_writeStatus_other (w : StatusWord) (f g : StatusBit) (v : Bool) (h : g ≠ f) :
    readStatus (writeStatus w f v) g = readStatus w g := by
  cases f <;> cases g <;> cases v <;>
    simp_all [readStatus, writeStatus, StatusBit.index, StatusBit.mask]

/-- What a write of one STATUS bit does to every bit (rule R34). -/
@[simp] theorem readStatus_writeStatus (w : StatusWord) (f g : StatusBit) (v : Bool) :
    readStatus (writeStatus w f v) g = if g = f then v else readStatus w g := by
  split
  · subst_vars; exact readStatus_writeStatus_same _ _ _
  · exact readStatus_writeStatus_other _ _ _ _ ‹_›

/-- No write of a STATUS bit changes the reserved bits 7 to 5 (rule R34). -/
@[simp] theorem writeStatus_reserved (w : StatusWord) (f : StatusBit) (v : Bool) :
    (writeStatus w f v).extractLsb' 5 3 = w.extractLsb' 5 3 := by
  cases f <;> cases v <;> simp [writeStatus, StatusBit.mask, BitVec.extractLsb'_or, BitVec.extractLsb'_and]
  all_goals exact BitVec.and_allOnes

@[simp] theorem has_putStatus (b : Block p) (f g : StatusBit) (v : Bool) :
    (b.putStatus f v).has g = if g = f then v else b.has g := by simp [Block.has]

@[simp] theorem has_flag (b : Block p) (f g : StatusBit) :
    (b.flag f).has g = if g = f then true else b.has g := by simp [Block.has]

@[simp] theorem has_putH (b : Block p) (s : Symbol) (g : StatusBit) : (b.putH s).has g = b.has g := rfl
@[simp] theorem has_putSeen (b : Block p) (v : Bool) (g : StatusBit) : (b.putSeen v).has g = b.has g := rfl
@[simp] theorem has_emit (b : Block p) (r : Record p.tsW) (g : StatusBit) : (b.emit r).has g = b.has g := rfl
@[simp] theorem has_latch (b : Block p) (g : StatusBit) : b.latch.has g = b.has g := rfl
@[simp] theorem has_writeShadow (b : Block p) (r : CfgReg) (d : BitVec p.sampleW) (g : StatusBit) :
    (b.writeShadow r d).has g = b.has g := rfl

/-- Every STATUS bit is 0 after reset (rules R34, R41). -/
@[simp] theorem has_resetBlock (g : StatusBit) : (resetBlock p).has g = false := by
  simp [Block.has, resetBlock, readStatus]

end Sys2Proof.Machine
end

