-- ==== Sys2Proof/Laws/Operands.lean ====
section
/-! SUPPORT. The laws of operand forms and register writes. -/

namespace Sys2Proof.Machine

/-- The reading of rule R10 is the library's two's complement reading. -/
theorem sint_eq_toInt {w : Nat} (v : BitVec w) : sint v = v.toInt := by
  rw [BitVec.toInt_eq_msb_cond]
  simp [sint]

/-- A symbol's encoding reads as its value (rule R76). -/
theorem enc_value (s : Symbol) : sint s.enc = s.value := by cases s <;> decide

theorem enc_injective {s t : Symbol} (h : s.enc = t.enc) : s = t := by
  cases s <;> cases t <;> first | rfl | (revert h; decide)

theorem enc_ne_unused (s : Symbol) : s.enc ≠ 0b10 := by cases s <;> decide

/-- The address map of rule R51, both ways. -/
@[simp] theorem cfgRegAt_cfgAddrOf (r : CfgReg) : cfgRegAt (cfgAddrOf r) = some r := by cases r <;> rfl

/-- The addresses that hold a register are 0 to 8 (rule R50). -/
theorem cfgRegAt_eq_none_iff (addr : CfgAddr) : cfgRegAt addr = none ↔ 9 ≤ addr.toNat := by
  revert addr; decide

/-- What one register write leaves in every register (rules R54, R74). -/
theorem readReg_writeReg {w : Nat} (regs : ConfigRegs w) (r q : CfgReg) (data : BitVec w) :
    readReg (writeReg regs r data) q = if q = r then storedValue r data else readReg regs q := by
  cases r <;> cases q <;> simp [writeReg, readReg, storedValue]

end Sys2Proof.Machine
end

