-- ==== Sys2Proof/Laws/Ops.lean ====
section
/-! SUPPORT. One lemma per shared operation saying once what it can do. -/

namespace Sys2Proof.Machine

variable {p : Params}

/-- A configuration that passes the check is of a legal mode (rule R105). -/
theorem cfgValid_mode {w : Nat} {R : ConfigRegs w} (h : cfgValid R = true) :
    R.mode = modeTri ∨ R.mode = modePam3 := by
  unfold cfgValid at h
  split at h
  · exact .inl ‹_›
  · split at h
    · exact .inr ‹_›
    · cases h

/-- What CFG_WRITE does: one shadow register, or the ILL_CMD bit (rules R101, R102). -/
theorem configWrite_cases (addr : CfgAddr) (o : Operands p) (b : Block p) :
    (∃ r, cfgRegAt addr = some r ∧ configWrite addr o b = b.writeShadow r o.data) ∨
      (cfgRegAt addr = none ∧ configWrite addr o b = b.flag .illCmd) := by
  unfold configWrite
  split
  · exact .inl ⟨_, ‹_›, rfl⟩
  · exact .inr ⟨‹_›, rfl⟩

/-- What START does (rules R104, R106). -/
theorem startPass_cases (b : Block p) :
    (b.has .active = true ∧ startPass b = b.flag .seqErr) ∨
      (b.has .active = false ∧ cfgValid b.sh = true ∧
        startPass b = openPass ((b.putStatus .cfgErr false).putStatus .empty false)) ∨
      (b.has .active = false ∧ cfgValid b.sh = false ∧
        startPass b = ((b.putStatus .cfgErr false).putStatus .empty false).flag .cfgErr) := by
  unfold startPass
  cases ha : b.has .active
  · cases hv : cfgValid b.sh <;> simp [hv]
  · simp

/-- What END does (rules R107, R108). -/
theorem closePass_cases (b : Block p) :
    (b.has .active = true ∧ closePass b = (b.putStatus .active false).putStatus .empty (!b.seen)) ∨
      (b.has .active = false ∧ closePass b = b.flag .seqErr) := by
  unfold closePass
  cases ha : b.has .active <;> simp

/-- What SAMPLE does (rules R130, R131, R137). -/
theorem takeSample_cases (o : Operands p) (b : Block p) :
    (b.has .active = false ∧ takeSample o b = .ok (b.flag .seqErr)) ∨
      (b.has .active = true ∧ b.ac.mode = modeTri ∧ takeSample o b = .ok (sampleTri o (b.putSeen true))) ∨
      (b.has .active = true ∧ b.ac.mode = modePam3 ∧ takeSample o b = .ok (samplePam3 o (b.putSeen true))) ∨
      (b.has .active = true ∧ b.ac.mode ≠ modeTri ∧ b.ac.mode ≠ modePam3 ∧
        takeSample o b = .error .activeModeReserved) := by
  unfold takeSample
  cases ha : b.has .active
  · simp
  · by_cases h0 : b.ac.mode = modeTri
    · simp [h0]
    · by_cases h1 : b.ac.mode = modePam3 <;> simp [h0, h1]
      simp [modePam3, modeTri]

/-- What an accepted START leaves, field by field (rule R104). -/
@[simp] theorem openPass_sh (b : Block p) : (openPass b).sh = b.sh := rfl
@[simp] theorem openPass_ac (b : Block p) : (openPass b).ac = b.sh := rfl
@[simp] theorem openPass_h (b : Block p) : (openPass b).h = .zero := rfl
@[simp] theorem openPass_seen (b : Block p) : (openPass b).seen = false := rfl
@[simp] theorem openPass_status (b : Block p) : (openPass b).status = writeStatus b.status .active true := rfl
@[simp] theorem openPass_out (b : Block p) : (openPass b).out = b.out := rfl
@[simp] theorem has_openPass (b : Block p) (g : StatusBit) :
    (openPass b).has g = if g = .active then true else b.has g := by simp [Block.has]

/-- What a TRI sample leaves, field by field (rule R131). -/
@[simp] theorem sampleTri_sh (o : Operands p) (b : Block p) : (sampleTri o b).sh = b.sh := rfl
@[simp] theorem sampleTri_ac (o : Operands p) (b : Block p) : (sampleTri o b).ac = b.ac := rfl
@[simp] theorem sampleTri_h (o : Operands p) (b : Block p) :
    (sampleTri o b).h = triNext b.ac b.h (sint o.si) := rfl
@[simp] theorem sampleTri_seen (o : Operands p) (b : Block p) : (sampleTri o b).seen = b.seen := rfl
@[simp] theorem sampleTri_status (o : Operands p) (b : Block p) : (sampleTri o b).status = b.status := rfl
@[simp] theorem sampleTri_out (o : Operands p) (b : Block p) :
    (sampleTri o b).out = b.out ++ [triRecord o (triNext b.ac b.h (sint o.si))] := rfl
@[simp] theorem has_sampleTri (o : Operands p) (b : Block p) (g : StatusBit) :
    (sampleTri o b).has g = b.has g := rfl

/-- What a PAM3 sample leaves, field by field (rule R137). -/
@[simp] theorem samplePam3_sh (o : Operands p) (b : Block p) : (samplePam3 o b).sh = b.sh := rfl
@[simp] theorem samplePam3_ac (o : Operands p) (b : Block p) : (samplePam3 o b).ac = b.ac := rfl
@[simp] theorem samplePam3_h (o : Operands p) (b : Block p) : (samplePam3 o b).h = b.h := rfl
@[simp] theorem samplePam3_seen (o : Operands p) (b : Block p) : (samplePam3 o b).seen = b.seen := rfl
@[simp] theorem samplePam3_status (o : Operands p) (b : Block p) : (samplePam3 o b).status = b.status := rfl
@[simp] theorem samplePam3_out (o : Operands p) (b : Block p) :
    (samplePam3 o b).out = b.out ++ [pamRecord b.ac o] := rfl
@[simp] theorem has_samplePam3 (o : Operands p) (b : Block p) (g : StatusBit) :
    (samplePam3 o b).has g = b.has g := rfl

/-- The records of both engines hold encoded symbols only (rule R76). -/
theorem triRecord_encoded (o : Operands p) (s : Symbol) :
    (triRecord o s).s0 ≠ 0b10 ∧ (triRecord o s).s1 ≠ 0b10 := ⟨enc_ne_unused s, by simp [triRecord]⟩

theorem pamRecord_encoded (ac : ConfigRegs p.sampleW) (o : Operands p) :
    (pamRecord ac o).s0 ≠ 0b10 ∧ (pamRecord ac o).s1 ≠ 0b10 := ⟨enc_ne_unused _, enc_ne_unused _⟩

end Sys2Proof.Machine
end

