-- ==== Sys2Proof/Laws/PerInstr.lean ====
section
/-! SUPPORT. A statement about every command's encoding, one lemma per constructor. -/

namespace Sys2Proof.Laws.RowPattern

/-- The match and mask of a command's row in opcode_table.json. -/
def rowOf : Instr → CommandWord × CommandWord
  | .nop _ => (0x00, 0x70)
  | .cfgWrite _ => (0x10, 0x70)
  | .start _ => (0x20, 0x70)
  | .sample _ => (0x30, 0x70)
  | .endPass _ => (0x40, 0x70)
  | .rsvd5 _ => (0x50, 0x70)
  | .rsvd67 _ => (0x60, 0x60)

/-- The encoded word is of the command's own row. -/
def Statement (i : Instr) : Prop := encode i &&& (rowOf i).2 = (rowOf i).1

theorem nop (addr : CfgAddr) : Statement (.nop addr) := by unfold Statement; revert addr; decide
theorem cfgWrite (addr : CfgAddr) : Statement (.cfgWrite addr) := by unfold Statement; revert addr; decide
theorem start (addr : CfgAddr) : Statement (.start addr) := by unfold Statement; revert addr; decide
theorem sample (addr : CfgAddr) : Statement (.sample addr) := by unfold Statement; revert addr; decide
theorem endPass (addr : CfgAddr) : Statement (.endPass addr) := by unfold Statement; revert addr; decide
theorem rsvd5 (addr : CfgAddr) : Statement (.rsvd5 addr) := by unfold Statement; revert addr; decide
theorem rsvd67 (low : BitVec 5) : Statement (.rsvd67 low) := by unfold Statement; revert low; decide

end Sys2Proof.Laws.RowPattern
end

