-- ==== Sys2Proof/Laws/Step.lean ====
section
/-! SUPPORT. What the execution of a command, a step and a run can do, said once. -/

namespace Sys2Proof.Machine

variable {p : Params}

/-- Every command that gives a next state changes the block alone (rules R6, R13): parameters, ports and the
host's events stay. -/
theorem exec_next_shape {i : Instr} {s t : State} (h : exec i s = .next t) :
    ∃ b : Block s.params, t = s.withBlock b := by
  cases i with
  | nop a => cases h; exact ⟨_, rfl⟩
  | cfgWrite a => cases h; exact ⟨_, rfl⟩
  | start a => cases h; exact ⟨_, rfl⟩
  | sample a =>
    simp only [exec, execSample] at h
    split at h
    · cases h; exact ⟨_, rfl⟩
    · cases h
  | endPass a => cases h; exact ⟨_, rfl⟩
  | rsvd5 a => cases h; exact ⟨_, rfl⟩
  | rsvd67 a => cases h; exact ⟨_, rfl⟩

/-- The one way a command stops (log entry 8). -/
theorem exec_stop_cases {i : Instr} {s : State} (h : ∀ t, exec i s ≠ .next t) :
    (∃ a, i = .sample a) ∧ s.block.has .active = true ∧ s.block.ac.mode ≠ modeTri ∧ s.block.ac.mode ≠ modePam3 ∧
      exec i s = .fault .activeModeReserved := by
  cases i with
  | nop a => exact absurd rfl (h _)
  | cfgWrite a => exact absurd rfl (h _)
  | start a => exact absurd rfl (h _)
  | sample a =>
    simp only [exec, execSample] at h ⊢
    rcases takeSample_cases s.ports s.block with ⟨_, e⟩ | ⟨_, _, e⟩ | ⟨_, _, e⟩ | ⟨ha, h0, h1, e⟩
    · rw [e] at h; exact absurd rfl (h _)
    · rw [e] at h; exact absurd rfl (h _)
    · rw [e] at h; exact absurd rfl (h _)
    · rw [e]; exact ⟨⟨a, rfl⟩, ha, h0, h1, rfl⟩
  | endPass a => exact absurd rfl (h _)
  | rsvd5 a => exact absurd rfl (h _)
  | rsvd67 a => exact absurd rfl (h _)

/-- A run over no events, and over one event more. -/
@[simp] theorem runAll_nil (b : Block p) (o : Operands p) :
    runAll { params := p, block := b, ports := o, input := [] } =
      .next { params := p, block := b, ports := o, input := [] } := rfl

theorem runFor_add (m n : Nat) (s : State) :
    runFor (m + n) s = match runFor m s with
      | .next t => runFor n t
      | .fault f => .fault f
      | .refused r => .refused r := by
  induction m generalizing s with
  | zero => simp [runFor]
  | succ m ih =>
    rw [Nat.succ_add]
    simp only [runFor]
    cases step s <;> simp [ih]

/-- The host's own run is this run. -/
theorem runFor_eq_core_run (n : Nat) (s : State) :
    runFor n s = Host.Core.run { State := State, Fault := Fault, Refusal := Refusal, step := step, reset := State.reset } n s := by
  induction n generalizing s with
  | zero => rfl
  | succ n ih =>
    simp only [runFor, Host.Core.run]
    cases step s <;> simp [ih]

/-- One pending command taken: if it gives a next state, the run goes on from there. -/
theorem runAll_command {i : Instr} {b b' : Block p} {o : Operands p} {c : Command p} {es : List (HostEvent p)}
    (hd : decode c.cw = i)
    (h : exec i { params := p, block := b, ports := c.operands, input := es } =
      .next { params := p, block := b', ports := c.operands, input := es }) :
    runAll { params := p, block := b, ports := o, input := .command c :: es } =
      runAll { params := p, block := b', ports := c.operands, input := es } := by
  subst hd
  have hs : step { params := p, block := b, ports := o, input := .command c :: es } =
      .next { params := p, block := b', ports := c.operands, input := es } := h
  simp only [runAll, List.length_cons, runFor, hs]

/-- One reset event taken. -/
theorem runAll_reset (b : Block p) (o : Operands p) (c : Option (Command p)) (es : List (HostEvent p)) :
    runAll { params := p, block := b, ports := o, input := .reset c :: es } =
      runAll { params := p, block := resetBlock p, ports := o, input := es } := rfl

theorem decode_start_word (a : CfgAddr) : decode (encode (.start a)) = .start a := by revert a; decide
theorem decode_sample_word (a : CfgAddr) : decode (encode (.sample a)) = .sample a := by revert a; decide
theorem decode_endPass_word (a : CfgAddr) : decode (encode (.endPass a)) = .endPass a := by revert a; decide

/-- A START, SAMPLE or END event taken. -/
theorem runAll_startEvent {a : CfgAddr} {b b' : Block p} {o x : Operands p} {es : List (HostEvent p)}
    (h : exec (.start a) { params := p, block := b, ports := x, input := es } =
      .next { params := p, block := b', ports := x, input := es }) :
    runAll { params := p, block := b, ports := o, input := startEvent a x :: es } =
      runAll { params := p, block := b', ports := x, input := es } :=
  runAll_command (c := { cw := encode (.start a), operands := x }) (decode_start_word a) h

theorem runAll_sampleEvent {a : CfgAddr} {b b' : Block p} {o x : Operands p} {es : List (HostEvent p)}
    (h : exec (.sample a) { params := p, block := b, ports := x, input := es } =
      .next { params := p, block := b', ports := x, input := es }) :
    runAll { params := p, block := b, ports := o, input := sampleEvent a x :: es } =
      runAll { params := p, block := b', ports := x, input := es } :=
  runAll_command (c := { cw := encode (.sample a), operands := x }) (decode_sample_word a) h

theorem runAll_endEvent {a : CfgAddr} {b b' : Block p} {o x : Operands p} {es : List (HostEvent p)}
    (h : exec (.endPass a) { params := p, block := b, ports := x, input := es } =
      .next { params := p, block := b', ports := x, input := es }) :
    runAll { params := p, block := b, ports := o, input := endEvent a x :: es } =
      runAll { params := p, block := b', ports := x, input := es } :=
  runAll_command (c := { cw := encode (.endPass a), operands := x }) (decode_endPass_word a) h

/-- The records of a pass depend on SI, OFS and DUR of its samples, and on SQ in PAM3 mode alone (rules R40, R75). -/
theorem passRecords_congr {ac : ConfigRegs p.sampleW} {xs ys : List (Operands p)}
    (h : xs.map (fun x => (x.si, x.ofs, x.dur)) = ys.map (fun x => (x.si, x.ofs, x.dur)))
    (hq : ac.mode = modePam3 → xs.map (·.sq) = ys.map (·.sq)) : passRecords ac xs = passRecords ac ys := by
  by_cases hm : ac.mode = modePam3
  · have pam : ∀ l : List (Operands p), l.map (pamRecord ac) =
        List.zipWith (fun (r : _ × _ × _) sq =>
            pamRecord ac { data := 0, si := r.1, sq := sq, ofs := r.2.1, dur := r.2.2 })
          (l.map (fun x => (x.si, x.ofs, x.dur))) (l.map (·.sq)) := by
      intro l; simp [pamRecord]
    rw [passRecords, passRecords, if_pos hm, if_pos hm, pam, pam, h, hq hm]
  · have tri : ∀ (l : List (Operands p)) (syms : List Symbol), List.zipWith triRecord l syms =
        List.zipWith (fun (r : BitVec p.sampleW × _ × _) s =>
            { s0 := Symbol.enc s, s1 := 0b00, ofs := r.2.1, dur := r.2.2 })
          (l.map (fun x => (x.si, x.ofs, x.dur))) syms := by
      intro l syms; rw [List.zipWith_map_left]; rfl
    have hsi : xs.map (·.si) = ys.map (·.si) := by
      simpa [Function.comp_def] using congrArg (List.map (·.1)) h
    rw [passRecords, passRecords, if_neg hm, if_neg hm, tri, tri, h, hsi]

end Sys2Proof.Machine
end

