-- ==== Sys2Proof/Tests/Slice0.lean ====
section
/-! SUPPORT. Tests: words written out from rule R72, the refusals of rules R7 and R80, single steps with results
taken from 95_test_vectors.md (its row is named in each comment), and, for every statement with hypotheses, a
concrete state and operands that meet them. -/

namespace Sys2Proof.Tests

open Sys2Proof.Machine

/-! Words, from the encoding column of the opcode table. -/

theorem test_decode_nop : decode 0b0001111 = .nop 15 := by decide
theorem test_decode_cfgWrite : decode 0b0010101 = .cfgWrite 5 := by decide
theorem test_decode_start : decode 0b0100000 = .start 0 := by decide
theorem test_decode_sample : decode 0b0111000 = .sample 8 := by decide
theorem test_decode_endPass : decode 0b1000001 = .endPass 1 := by decide
theorem test_decode_rsvd5 : decode 0b1010011 = .rsvd5 3 := by decide
theorem test_decode_rsvd6 : decode 0b1100010 = .rsvd67 0b00010 := by decide
theorem test_decode_rsvd7 : decode 0b1111111 = .rsvd67 0b11111 := by decide
theorem test_decodeTableWord : decodeTableWord 8 0x1C = some (.cfgWrite 12) := by decide
theorem test_decodeTableWord_bit7 : decodeTableWord 8 0x9C = none := by decide

/-! Refusals of ill-formed terms. -/

theorem test_params_ok : (Params.mk 16 32 1 1000).wellFormed := by decide
theorem test_params_sampleW : ¬ (Params.mk 1 32 1 1000).wellFormed := by decide
theorem test_params_tsW : ¬ (Params.mk 16 0 1 1000).wellFormed := by decide
theorem test_params_lsbNum : ¬ (Params.mk 16 32 0 1000).wellFormed := by decide
theorem test_params_lsbDen : ¬ (Params.mk 16 32 1 0).wellFormed := by decide
theorem test_instr_wellFormed : (Instr.rsvd67 0b11111).wellFormed = true := by decide
theorem test_asm_mode_range : (Asm.cfgw 0 7).assemble Config.params = .error .outOfRange := by decide
theorem test_asm_code_range : (Asm.cfgw 1 32768).assemble Config.params = .error .outOfRange := by decide
theorem test_asm_si_range : (Asm.sampleTri (-32769) 0 0).assemble Config.params = .error .outOfRange := by decide
theorem test_asm_sq_range : (Asm.sample 0 32768 0 0).assemble Config.params = .error .outOfRange := by decide
theorem test_asm_tick_range : (Asm.sampleTri 0 (-1) 0).assemble Config.params = .error .outOfRange := by decide
theorem test_asm_dur_range : (Asm.sampleTri 0 0 4294967296).assemble Config.params = .error .outOfRange := by decide
theorem test_asm_cw_range : (Asm.cw 128).assemble Config.params = .error .outOfRange := by decide

/-! Assembler text: lines of 95_test_vectors.md programs P2, P4 and rule R81. -/

theorem test_parse_cfgw :
    parseLine [' ', 'c', 'f', 'g', 'w', ' ', 'E', 'X', 'I', 'T', '_', 'L', 'O', ',', ' ', '-', '3', '0', ';', 'x'] =
      .ok [.cfgw 3 (-30)] := by decide
theorem test_parse_hex : parseLine ['.', 'c', 'w', ' ', '0', 'x', '5', 'F'] = .ok [.cw 95] := by decide
theorem test_parse_mlt3 :
    parseLine ['m', 'l', 't', '3', ' ', '9'] =
      .ok [.cfgw 1 9, .cfgw 2 9, .cfgw 3 (-9), .cfgw 4 (-9)] := by decide
theorem test_parse_mode_pam3 : parseLine ['m', 'o', 'd', 'e', ' ', 'p', 'a', 'm', '3'] = .ok [.cfgw 0 1] := by decide
theorem test_parse_comment : parseLine [' ', ';', 'e', 'n', 'd'] = .ok [] := by decide
theorem test_parse_unknown : parseLine ['e', 'n', 'd', 's'] = .error .unknownForm := by decide
theorem test_parse_register :
    parseLine ['c', 'f', 'g', 'w', ' ', 'r', '1', '6', ',', '1'] = .error .badRegister := by decide
theorem test_parse_integer : parseLine ['.', 'c', 'w', ' ', '0', 'x'] = .error .badInteger := by decide

/-! Reset values (95_test_vectors.md 2.6, rows 3 and 4). -/

theorem test_conv_half_away :
    (conv ⟨16, 32, 8, 100⟩ 6 10).toInt = 8 ∧ (conv ⟨16, 32, 8, 100⟩ (-2) 10).toInt = -3 := by decide
theorem test_conv_saturates :
    (conv ⟨4, 32, 8, 100⟩ 6 10).toInt = 7 ∧ (conv ⟨4, 32, 8, 100⟩ (-6) 10).toInt = -8 := by decide

/-! Single steps. `fire` runs the word `w` with the given operands and looks at the block it leaves. -/

/-- Small parameters of the tests: 8-bit codes of 10 mV, 4-bit ticks; thresholds 60, 20, -20, -60 and ±40. -/
def tp : Params := ⟨8, 4, 1, 100⟩

/-- Operands with DATA `d`, SI `a`, SQ `q`, OFS 3 and DUR 5. -/
def ops (d a q : Int) : Operands tp :=
  { data := BitVec.ofInt _ d, si := BitVec.ofInt _ a, sq := BitVec.ofInt _ q, ofs := 3, dur := 5 }

/-- The block after one step with the command word `w`, none where the step stops. -/
def fire (w : CommandWord) (o : Operands tp) (b : Block tp) : Option (Block tp) :=
  match step { params := tp, block := b, ports := zeroOperands tp, input := [.command ⟨w, o⟩] } with
  | .next t => if h : t.params = tp then some (h ▸ t.block) else none
  | .fault _ => none
  | .refused _ => none

/-- Idle, at reset. -/
def idle : Block tp := resetBlock tp
/-- A TRI pass at H = `h`. -/
def tri (h : Symbol) : Block tp := { resetBlock tp with status := 0x01, h := h }
/-- A PAM3 pass. -/
def pam : Block tp := { resetBlock tp with status := 0x01, ac := pam3Config tp }
/-- Idle, with the reserved mode `m` in the shadow register. -/
def badMode (m : BitVec 2) : Block tp := { resetBlock tp with sh := { resetConfig tp with mode := m } }

-- S8, S12
theorem test_nop : fire 0x0F (ops 9 9 9) idle = some idle := by decide
-- K8, K9: DATA[1:0] is what is stored
theorem test_cfgWrite_mode : (fire 0x10 (ops 7 0 0) idle).map (·.sh.mode) = some 3 := by decide
theorem test_cfgWrite_threshold : (fire 0x18 (ops (-5) 0 0) idle).map (·.sh.qLower.toInt) = some (-5) := by decide
-- S7
theorem test_cfgWrite_reserved : (fire 0x19 (ops 1 0 0) idle).map (·.status) = some 0x10 := by decide
-- S1, K6
theorem test_start : (fire 0x20 (ops 0 0 0) idle).map (·.status) = some 0x01 := by decide
theorem test_start_rejected : (fire 0x20 (ops 0 0 0) (badMode 2)).map (·.status) = some 0x02 := by decide
-- S2
theorem test_start_in_pass : (fire 0x20 (ops 0 0 0) (tri .pos)).map (fun b => (b.status, b.h)) = some (0x09, .pos) := by
  decide
-- S3, S4
theorem test_end_empty : (fire 0x40 (ops 0 0 0) (tri .zero)).map (·.status) = some 0x04 := by decide
theorem test_end_idle : (fire 0x40 (ops 0 0 0) idle).map (·.status) = some 0x08 := by decide
-- S5
theorem test_sample_idle : (fire 0x30 (ops 0 70 0) idle).map (fun b => (b.status, b.out)) = some (0x08, []) := by decide
-- T3, T4 (in codes of 10 mV)
theorem test_sample_enter : (fire 0x30 (ops 0 61 0) (tri .zero)).map (fun b => (b.h, b.out)) =
    some (.pos, [⟨0b01, 0b00, 3, 5⟩]) := by decide
theorem test_sample_at_enter : (fire 0x30 (ops 0 60 0) (tri .zero)).map (·.h) = some .zero := by decide
-- T14
theorem test_sample_swing : (fire 0x30 (ops 0 (-70) 0) (tri .pos)).map (·.h) = some .neg := by decide
-- Q4
theorem test_sample_pam3 : (fire 0x30 (ops 0 (-41) 41) pam).map (·.out) = some [⟨0b11, 0b01, 3, 5⟩] := by decide
-- S6
theorem test_rsvd5 : (fire 0x50 (ops 0 0 0) idle).map (·.status) = some 0x10 := by decide
theorem test_rsvd67 : (fire 0x7F (ops 0 0 0) (tri .pos)).map (fun b => (b.status, b.h)) = some (0x11, .pos) := by decide
-- The host's fetch word runs as the first command after reset.
theorem test_withFetchWord : step (State.reset.withFetchWord 8 0x20) =
    exec (.start 0) (State.reset.present (zeroOperands _) []) := by rfl
-- P1 line 6
theorem test_record_word :
    recordWord ({ s0 := Symbol.neg.enc, s1 := 0, ofs := 40, dur := 10 } : Record 32) = 0xA000000283#68 := by decide

/-! Witnesses: for each statement with hypotheses, values that meet them, clause by clause. -/

theorem witness_ByteDecoderRejects : 128 ≤ (128 : Byte).toNat ∧ (127 : Byte).toNat < 128 := by decide
theorem witness_AddrFieldReadByConfigWriteOnly :
    opField 0x1F = 1 ∧ opField 0x30 = opField 0x3F ∧ opField 0x30 ≠ 1 := by decide
-- For AssemblerForms too.
theorem witness_ConfigWriteReservedAddress : 9 ≤ (9 : CfgAddr).toNat ∧ 9 ≤ (15 : CfgAddr).toNat := by decide
theorem witness_StartWhileIdle :
    idle.status.getLsbD 0 = false ∧ cfgValid idle.sh = true ∧
      (badMode 3).status.getLsbD 0 = false ∧ cfgValid (badMode 3).sh = false := by decide
-- For StartInAPass, EndInAPass (both values of SEEN) and HysteresisChangesOutsideBand; witness_StartWhileIdle also
-- for EndWhileIdle and SampleWhileIdle.
theorem witness_InAPass : (tri .pos).status.getLsbD 0 = true ∧ (tri .pos).ac.mode = 0 ∧ (tri .pos).seen = false := by decide
theorem witness_InAPass_seen : ({ tri .pos with seen := true }).status.getLsbD 0 = true := by decide
theorem witness_ConvRoundsAndSaturates : tp.wellFormed ∧ 0 < 10 := by decide
theorem witness_ConvRoundsAndSaturates_tie :
    2 * |((10 * 8 : Nat) : Int) * roundHalfAway (6 * (100 : Nat)) (10 * 8) - 6 * (100 : Nat)| = ((10 * 8 : Nat) : Int) := by
  decide
theorem witness_ProfilesAreLegal : tp.wellFormed ∧ (0 : Int) ≤ 0 ∧ 0 < 1 := by decide
theorem witness_SampleInTriPass : (tri .zero).status.getLsbD 0 = true ∧ (tri .zero).ac.mode = 0 := by decide
theorem witness_SampleInPam3Pass : pam.status.getLsbD 0 = true ∧ pam.ac.mode = 1 := by decide
theorem witness_SampleStopsOnReservedActiveMode :
    ({ pam with ac := (badMode 2).sh }).ac.mode = 2 ∧ ({ pam with ac := (badMode 3).sh }).ac.mode = 3 ∧
      ({ pam with ac := (badMode 2).sh }).status.getLsbD 0 = true := by decide

/-- The reset thresholds with both exits at 20: the configuration of the shared code (vectors E1 to E5). -/
def shared : ConfigRegs 8 := { resetConfig tp with exitLo := 20 }
/-- All four TRI thresholds at 0 (vectors Z1 to Z6). -/
def allZero : ConfigRegs 8 := { resetConfig tp with enterHi := 0, exitHi := 0, exitLo := 0, enterLo := 0 }

theorem witness_TriTransitionTable :
    cfgValid (resetConfig tp) = true ∧ (resetConfig tp).mode = 0 ∧
      (resetConfig tp).exitLo.toInt < (resetConfig tp).exitHi.toInt ∧
      61 > (resetConfig tp).enterHi.toInt ∧
      ((resetConfig tp).exitHi.toInt ≤ 20 ∧ 20 ≤ (resetConfig tp).enterHi.toInt) ∧
      ((resetConfig tp).exitLo.toInt < -19 ∧ -19 < (resetConfig tp).exitHi.toInt) ∧
      ((resetConfig tp).enterLo.toInt ≤ -20 ∧ -20 ≤ (resetConfig tp).exitLo.toInt) ∧
      -61 < (resetConfig tp).enterLo.toInt := by decide
theorem witness_TriTransitionTable_shared :
    cfgValid shared = true ∧ shared.mode = 0 ∧ shared.exitLo.toInt = shared.exitHi.toInt ∧
      (20 : Int) = shared.exitHi.toInt ∧ (21 : Int) ≠ shared.exitHi.toInt := by decide
theorem witness_DirectFullSwing :
    cfgValid (tri .pos).ac = true ∧ (tri .pos).h = .pos ∧ (ops 0 (-61) 0).si.toInt < (tri .pos).ac.enterLo.toInt ∧
      (tri .neg).h = .neg ∧ (ops 0 61 0).si.toInt > (tri .neg).ac.enterHi.toInt := by decide
theorem witness_TriThresholdCorners :
    (cfgValid { resetConfig tp with enterHi := 127 } = true ∧
      ({ resetConfig tp with enterHi := 127 } : ConfigRegs 8).enterHi.toInt = maxCode 8) ∧
    (cfgValid { resetConfig tp with enterLo := -128 } = true ∧
      ({ resetConfig tp with enterLo := -128 } : ConfigRegs 8).enterLo.toInt = minCode 8) ∧
    (cfgValid { resetConfig tp with exitHi := -128, exitLo := -128, enterLo := -128 } = true ∧
      ({ resetConfig tp with exitHi := -128 } : ConfigRegs 8).exitHi.toInt = minCode 8) ∧
    (cfgValid allZero = true ∧ allZero.mode = 0 ∧ allZero.enterHi.toInt = allZero.enterLo.toInt ∧
      (1 : BitVec 8) ≠ allZero.enterHi) := by decide
theorem witness_HysteresisHoldsInBand :
    (tri .pos).status.getLsbD 0 = true ∧ (tri .pos).ac.mode = 0 ∧
      ∀ x ∈ [((0 : CfgAddr), ops 0 20 0), (15, ops 0 127 0)], inBand (tri .pos).ac (tri .pos).h x.2.si := by
  refine ⟨by decide, by decide, ?_⟩
  simp only [List.forall_mem_cons]
  exact ⟨show (tri .pos).ac.exitHi.toInt ≤ (ops 0 20 0).si.toInt by decide,
    show (tri .pos).ac.exitHi.toInt ≤ (ops 0 127 0).si.toInt by decide, by simp⟩
theorem witness_NoFiniteLookBehind :
    cfgValid (resetConfig tp) = true ∧ (resetConfig tp).mode = 0 ∧ (resetConfig tp).enterHi.toInt < maxCode 8 := by
  decide
theorem witness_Pam3Decision : (-40 : Int) ≤ 40 := by decide
theorem witness_Pam3AxesIndependent :
    pam.status.getLsbD 0 = true ∧ pam.ac.mode = 1 ∧ (ops 0 41 5).si = (ops 9 41 (-41)).si ∧
      (ops 0 41 5).sq = (ops 9 7 5).sq ∧ pam.ac.iUpper = ({ pam with h := .pos }).ac.iUpper := by decide
theorem witness_UnreadPortsIgnored_cfgWrite :
    readPortsAgree (.cfgWrite 0) idle (ops 1 0 0) (ops 5 9 9) ∧ readPortsAgree (.cfgWrite 8) idle (ops 1 0 0) (ops 1 9 9) ∧
      readPortsAgree (.cfgWrite 9) idle (ops 1 0 0) (ops 2 9 9) := by
  refine ⟨⟨by decide, by decide⟩, ⟨by decide, by decide⟩, ⟨by decide, by decide⟩⟩
theorem witness_UnreadPortsIgnored_sample : readPortsAgree (.sample 0) (tri .zero) (ops 0 5 0) (ops 9 5 9) := by
  intro _; exact ⟨by decide, by decide, by decide, by decide⟩
theorem witness_UnreadPortsIgnored_runs :
    exec (.sample 0) ⟨tp, tri .zero, ops 0 5 0, []⟩ =
      .next ⟨tp, { tri .zero with seen := true, out := [⟨0, 0, 3, 5⟩] }, ops 0 5 0, []⟩ := by rfl

/-- A PAM3 pass meets the invariant. -/
theorem witness_Inv : pam.Inv := ⟨by decide, by decide, by decide, by decide, by decide⟩
theorem witness_EveryStepKeepsInvariant :
    State.Inv ⟨tp, pam, ops 0 0 0, []⟩ ∧ step ⟨tp, pam, ops 0 0 0, []⟩ = .next ⟨tp, pam, ops 0 0 0, []⟩ :=
  ⟨⟨by decide, witness_Inv⟩, rfl⟩
theorem witness_EveryRunCompletes : tp.wellFormed ∧ pam.Inv := ⟨by decide, witness_Inv⟩
theorem witness_InvariantAtReset : tp.wellFormed ∧ (Params.mk 2 1 1 1).wellFormed := by decide
theorem witness_Pam3NinePoints : (Params.mk 2 1 1 1).wellFormed := by decide
theorem witness_EveryWordCompletes : pam.ActiveConfigLegal ∧ pam.has .active = true := by decide
theorem witness_StickyBitsClearedByResetOnly :
    step ⟨tp, { idle with status := 0x18 }, ops 0 0 0, [.command ⟨0x00, ops 0 0 0⟩]⟩ =
        .next ⟨tp, { idle with status := 0x18 }, ops 0 0 0, []⟩ ∧
      step ⟨tp, { idle with status := 0x18 }, ops 0 0 0, [.reset none]⟩ = .next ⟨tp, idle, ops 0 0 0, []⟩ :=
  ⟨rfl, rfl⟩
theorem witness_StateWrittenByItsCommandsOnly :
    (configWrite 1 (ops 9 0 0) idle).sh ≠ idle.sh ∧
      (startPass { idle with sh := allZero, h := .pos, seen := true }).ac ≠ idle.ac ∧
      (startPass { idle with h := .pos }).h ≠ .pos ∧ (startPass { idle with seen := true }).seen ≠ true ∧
      (startPass idle).status.getLsbD 0 ≠ idle.status.getLsbD 0 ∧
      (closePass (tri .zero)).status.getLsbD 0 ≠ (tri .zero).status.getLsbD 0 ∧
      (startPass (badMode 2)).status.getLsbD 1 ≠ (badMode 2).status.getLsbD 1 ∧
      (closePass (tri .zero)).status.getLsbD 2 ≠ (tri .zero).status.getLsbD 2 ∧
      (startPass (tri .zero)).status.getLsbD 3 ≠ (tri .zero).status.getLsbD 3 ∧
      (configWrite 9 (ops 0 0 0) idle).status.getLsbD 4 ≠ idle.status.getLsbD 4 ∧
      (sampleTri (ops 0 61 0) (tri .zero)).h ≠ (tri .zero).h ∧
      (sampleTri (ops 0 61 0) (tri .zero)).out ≠ (tri .zero).out := by decide
theorem witness_OneRecordPerSampleInAPass :
    exec (.sample 0) ⟨tp, pam, ops 0 0 0, []⟩ =
      .next ⟨tp, { pam with seen := true, out := [⟨0, 0, 3, 5⟩] }, ops 0 0 0, []⟩ := by rfl
theorem witness_ErrorsArePrecise :
    errorOf (.cfgWrite 9) idle = some .illCmd ∧ errorOf (.start 0) (tri .zero) = some .seqErr ∧
      errorOf (.start 0) (badMode 2) = some .cfgErr ∧ errorOf (.cfgWrite 8) idle = none ∧
      errorOf (.start 0) idle = none ∧ errorOf (.sample 0) pam = none := by decide

/-- Events of a pass: a sample, a configuration write, a reserved word, a second START. -/
def inPass : List (HostEvent tp) :=
  [sampleEvent 0 (ops 0 61 0), .command ⟨0x11, ops 9 0 0⟩, .command ⟨0x7F, ops 0 0 0⟩, startEvent 0 (ops 0 0 0),
    sampleEvent 7 (ops 0 30 0)]
/-- The samples of `inPass` alone, with other values on the ports a TRI sample does not read. -/
def quietPass : List (HostEvent tp) := [sampleEvent 1 (ops 7 61 9), sampleEvent 2 (ops 8 30 (-9))]
theorem witness_PassEmitsItsRecords :
    idle.status.getLsbD 0 = false ∧ cfgValid idle.sh = true ∧ inPass.all HostEvent.staysInPass = true ∧
      samplesOf inPass = [ops 0 61 0, ops 0 30 0] := by decide
theorem witness_PassesAreDeterministic :
    idle.status.getLsbD 0 = false ∧ ({ idle with h := .neg, status := 0x18 }).status.getLsbD 0 = false ∧
      idle.sh = ({ idle with h := .neg, status := 0x18 }).sh ∧ cfgValid idle.sh = true ∧
      inPass.all HostEvent.staysInPass = true ∧
      quietPass.all HostEvent.staysInPass = true ∧ samplesOf inPass ≠ samplesOf quietPass ∧
      (samplesOf inPass).map (fun x => (x.si, x.ofs, x.dur)) = (samplesOf quietPass).map (fun x => (x.si, x.ofs, x.dur)) ∧
      idle.sh.mode ≠ 1 := by decide
theorem witness_PassesAreDeterministic_pam3 :
    cfgValid (pam3Config tp) = true ∧ (pam3Config tp).mode = 1 ∧
      (samplesOf [sampleEvent 0 (ops 1 61 5)]).map (·.sq) = (samplesOf [sampleEvent 0 (ops 2 61 5)]).map (·.sq) := by decide
theorem witness_InPassRuns :
    pam.status.getLsbD 0 = true ∧ pam.ActiveConfigLegal ∧ inPass.all HostEvent.staysInPass = true ∧
      inPass.filter (fun e => !e.isConfigWrite) ≠ inPass := by decide
theorem witness_OffsetsStayOrdered : offsetsOrdered ((samplesOf inPass).map (·.ofs.toNat)) := by
  show List.Pairwise (· ≤ ·) _
  decide
theorem witness_RejectedStartEmitsNothing :
    (badMode 2).status.getLsbD 0 = false ∧ cfgValid (badMode 2).sh = false ∧ [((7 : CfgAddr), ops 0 61 0)] ≠ [] := by
  decide
theorem witness_Mlt3PseudoSetsItsProfile :
    tp.wellFormed ∧ (0 : Int) ≤ 0 ∧ 0 ≤ maxCode tp.sampleW ∧ (127 : Int) ≤ maxCode tp.sampleW ∧ idle.sh.mode = 0 := by
  decide
theorem witness_InstancesShareNoState :
    ([State.reset, State.reset] : List State)[1]? = some State.reset ∧ step State.reset = .next State.reset := ⟨rfl, rfl⟩

end Sys2Proof.Tests
end

section
/-! PROOFS. What each command does to a block in the words of the shared operations, and that every command, reset
and run keeps the invariant (obligations O7, O9, O38, O39, O40). -/

namespace Sys2Proof.Machine

variable {p : Params}

/-! The next state of each command: the block operation of its row, the rest of the machine as it was. -/

theorem exec_nop_eq (a : CfgAddr) (s : State) : exec (.nop a) s = .next s := rfl

theorem exec_cfgWrite_eq (a : CfgAddr) (s : State) :
    exec (.cfgWrite a) s = .next (s.withBlock (configWrite a s.ports s.block)) := rfl

theorem exec_start_eq (a : CfgAddr) (s : State) :
    exec (.start a) s = .next (s.withBlock (startPass s.block)) := rfl

theorem exec_endPass_eq (a : CfgAddr) (s : State) :
    exec (.endPass a) s = .next (s.withBlock (closePass s.block)) := rfl

theorem exec_rsvd5_eq (a : CfgAddr) (s : State) :
    exec (.rsvd5 a) s = .next (s.withBlock (s.block.flag .illCmd)) := rfl

theorem exec_rsvd67_eq (low : BitVec 5) (s : State) :
    exec (.rsvd67 low) s = .next (s.withBlock (s.block.flag .illCmd)) := rfl

theorem exec_sample_eq_of_ok (a : CfgAddr) {s : State} {b : Block s.params}
    (h : takeSample s.ports s.block = .ok b) : exec (.sample a) s = .next (s.withBlock b) := by
  simp only [exec, execSample, h]

/-- SAMPLE gives a next state only as its block operation does (rule R130). -/
theorem exec_sample_next {a : CfgAddr} {s t : State} (h : exec (.sample a) s = .next t) :
    ∃ b, takeSample s.ports s.block = .ok b ∧ t = s.withBlock b := by
  simp only [exec, execSample] at h
  split at h
  · cases h; exact ⟨_, ‹_›, rfl⟩
  · cases h

/-- What a step that answers a next state did (rules R13, R190): it waited, ran a command, or took a reset. -/
theorem step_next_cases {s t : State} (h : step s = .next t) :
    (s.input = [] ∧ t = s) ∨
      (∃ c rest, s.input = .command c :: rest ∧ exec (decode c.cw) (s.present c.operands rest) = .next t) ∨
      (∃ c rest, s.input = .reset c :: rest ∧ t = s.afterReset rest) := by
  unfold step at h
  split at h
  · cases h; exact .inl ⟨‹_›, rfl⟩
  · exact .inr (.inl ⟨_, _, ‹_›, h⟩)
  · cases h; exact .inr (.inr ⟨_, _, ‹_›, rfl⟩)

theorem decode_wellFormed (w : CommandWord) : (decode w).wellFormed = true := by
  cases decode w <;> rfl

/-- Settles O7: `step` on a pending command is `exec` by definition, and every decoded command is well-formed. -/
theorem stepRunsDecodedCommand : Obligations.StepRunsDecodedCommand :=
  fun _ _ _ c _ => ⟨decode_wellFormed c.cw, rfl⟩

/-- Settles O9: the arm of `step` for an empty list of events. -/
theorem stepWaitsForTheHost : Obligations.StepWaitsForTheHost := fun _ _ _ => rfl

/-! Each block operation keeps the invariant. -/

theorem modeTri_ne_modePam3 : modeTri ≠ modePam3 := by decide

theorem resetBlock_inv : (resetBlock p).Inv where
  reserved := by simp [Block.ReservedStatusZero, resetBlock]
  legal := by simp [Block.ActiveConfigLegal]
  pamH := by simp [Block.PamHZero]
  diagnostics := by simp [Block.DiagnosticsExclusive]
  records := by simp [Block.RecordsEncoded, resetBlock]

/-- The sticky error bits are no part of the invariant (rule R165). -/
theorem flag_inv {b : Block p} {f : StatusBit} (hb : b.Inv) (hf : f = .seqErr ∨ f = .illCmd) :
    (b.flag f).Inv := by
  have same : ∀ g, g = .active ∨ g = .cfgErr ∨ g = .empty → (b.flag f).has g = b.has g := by
    rintro g (rfl | rfl | rfl) <;> rcases hf with rfl | rfl <;> simp
  obtain ⟨hres, hlegal, hpam, hdiag, hrec⟩ := hb
  constructor
  case reserved => simpa [Block.ReservedStatusZero] using hres
  case legal => simpa [Block.ActiveConfigLegal, same] using hlegal
  case pamH => simpa [Block.PamHZero, same] using hpam
  case diagnostics => simpa [Block.DiagnosticsExclusive, same] using hdiag
  case records => exact hrec

/-- The shadow registers are no part of the invariant (rule R60). -/
theorem writeShadow_inv {b : Block p} (hb : b.Inv) (r : CfgReg) (d : BitVec p.sampleW) :
    (b.writeShadow r d).Inv := ⟨hb.reserved, hb.legal, hb.pamH, hb.diagnostics, hb.records⟩

theorem configWrite_inv {b : Block p} (hb : b.Inv) (a : CfgAddr) (o : Operands p) :
    (configWrite a o b).Inv := by
  rcases configWrite_cases a o b with ⟨r, _, e⟩ | ⟨_, e⟩ <;> rw [e]
  · exact writeShadow_inv hb r o.data
  · exact flag_inv hb (.inr rfl)

/-- An accepted START opens a pass with H at 0 and both diagnostics clear; a rejected one leaves the block idle
with CFG_ERR alone of the two (rules R104, R106). -/
theorem startPass_inv {b : Block p} (hb : b.Inv) : (startPass b).Inv := by
  rcases startPass_cases b with ⟨_, e⟩ | ⟨_, hv, e⟩ | ⟨ha, _, e⟩ <;> rw [e]
  · exact flag_inv hb (.inl rfl)
  · constructor
    case reserved => simpa [Block.ReservedStatusZero] using hb.reserved
    case legal => simpa [Block.ActiveConfigLegal] using hv
    case pamH => simp [Block.PamHZero]
    case diagnostics => simp [Block.DiagnosticsExclusive]
    case records => exact hb.records
  · constructor
    case reserved => simpa [Block.ReservedStatusZero] using hb.reserved
    case legal => simp [Block.ActiveConfigLegal, ha]
    case pamH => simp [Block.PamHZero, ha]
    case diagnostics => simp [Block.DiagnosticsExclusive, ha]
    case records => exact hb.records

/-- END can set EMPTY, and CFG_ERR was clear in the pass it ends (rule R107). -/
theorem closePass_inv {b : Block p} (hb : b.Inv) : (closePass b).Inv := by
  rcases closePass_cases b with ⟨ha, e⟩ | ⟨_, e⟩ <;> rw [e]
  · obtain ⟨noCfgErr, _⟩ := hb.diagnostics.1 ha
    constructor
    case reserved => simpa [Block.ReservedStatusZero] using hb.reserved
    case legal => simp [Block.ActiveConfigLegal]
    case pamH => simp [Block.PamHZero]
    case diagnostics => simp [Block.DiagnosticsExclusive, noCfgErr]
    case records => exact hb.records
  · exact flag_inv hb (.inl rfl)

theorem emit_recordsEncoded {b : Block p} {r : Record p.tsW} (hb : b.RecordsEncoded)
    (hr : r.s0 ≠ 0b10 ∧ r.s1 ≠ 0b10) : (b.emit r).RecordsEncoded := by
  intro x hx
  rcases List.mem_append.mp hx with old | new
  · exact hb x old
  · obtain rfl := List.mem_singleton.mp new
    exact hr

/-- A TRI sample writes H, in a mode that is not PAM3; a PAM3 sample does not (rules R131, R137, R139). -/
theorem takeSample_inv {b c : Block p} {o : Operands p} (hb : b.Inv) (h : takeSample o b = .ok c) : c.Inv := by
  rcases takeSample_cases o b with ⟨_, e⟩ | ⟨_, hm, e⟩ | ⟨_, _, e⟩ | ⟨_, _, _, e⟩ <;> rw [e] at h <;> cases h
  · exact flag_inv hb (.inl rfl)
  · have notPam : b.ac.mode ≠ modePam3 := hm ▸ modeTri_ne_modePam3
    exact ⟨hb.reserved, hb.legal, fun _ pam => absurd pam notPam, hb.diagnostics,
      emit_recordsEncoded hb.records (triRecord_encoded o _)⟩
  · exact ⟨hb.reserved, hb.legal, hb.pamH, hb.diagnostics,
      emit_recordsEncoded hb.records (pamRecord_encoded b.ac o)⟩

/-- Every command that gives a next state keeps the invariant of the block. -/
theorem exec_block_inv {i : Instr} {s t : State} (hb : s.block.Inv) (h : exec i s = .next t) : t.block.Inv := by
  cases i with
  | nop a => cases h; exact hb
  | cfgWrite a => cases h; exact configWrite_inv hb a s.ports
  | start a => cases h; exact startPass_inv hb
  | sample a =>
    obtain ⟨b, hs, rfl⟩ := exec_sample_next h
    exact takeSample_inv hb hs
  | endPass a => cases h; exact closePass_inv hb
  | rsvd5 a => cases h; exact flag_inv hb (.inr rfl)
  | rsvd67 a => cases h; exact flag_inv hb (.inr rfl)

/-- Settles O38, by what a step can do: wait, run a command, or take a reset. -/
theorem everyStepKeepsInvariant : Obligations.EveryStepKeepsInvariant := by
  intro s t hs h
  rcases step_next_cases h with ⟨_, rfl⟩ | ⟨c, rest, _, hexec⟩ | ⟨c, rest, _, rfl⟩
  case inl => exact hs
  case inr.inl =>
    have hblock : t.block.Inv := exec_block_inv (s := s.present c.operands rest) hs.block hexec
    obtain ⟨b, rfl⟩ := exec_next_shape hexec
    exact ⟨hs.params, hblock⟩
  case inr.inr => exact ⟨hs.params, resetBlock_inv⟩

/-- With a legal active configuration no command stops: the one stop of `exec` needs a reserved active mode
(rule R105, log entry 8). -/
theorem exec_completes (i : Instr) {b : Block p} (o : Operands p) (es : List (HostEvent p))
    (legal : b.ActiveConfigLegal) : ∃ b', exec i ⟨p, b, o, es⟩ = .next ⟨p, b', o, es⟩ := by
  by_cases h : ∃ t, exec i ⟨p, b, o, es⟩ = .next t
  · obtain ⟨t, ht⟩ := h
    obtain ⟨b', rfl⟩ := exec_next_shape ht
    exact ⟨b', ht⟩
  · obtain ⟨_, active, notTri, notPam, _⟩ := exec_stop_cases (not_exists.mp h)
    rcases cfgValid_mode (legal active) with tri | pam
    · exact absurd tri notTri
    · exact absurd pam notPam

/-- Settles O39: `exec_completes` at the decoded word. -/
theorem everyWordCompletes : Obligations.EveryWordCompletes :=
  fun _ _ o es w legal => exec_completes (decode w) o es legal

/-- A run from a block with the invariant ends in one, by induction on the events. -/
theorem runAll_completes {b : Block p} (o : Operands p) (es : List (HostEvent p)) (hb : b.Inv) :
    ∃ b' o', runAll ⟨p, b, o, es⟩ = .next ⟨p, b', o', []⟩ ∧ b'.Inv := by
  induction es generalizing b o with
  | nil => exact ⟨b, o, runAll_nil b o, hb⟩
  | cons e es ih =>
    cases e with
    | command c =>
      obtain ⟨b₁, h₁⟩ := exec_completes (decode c.cw) c.operands es hb.legal
      rw [runAll_command rfl h₁]
      exact ih c.operands (exec_block_inv hb h₁)
    | reset c =>
      rw [runAll_reset]
      exact ih o resetBlock_inv

/-- Settles O40: `runAll_completes`, which needs nothing of the parameters. -/
theorem everyRunCompletes : Obligations.EveryRunCompletes :=
  fun _ _ o es _ hb => runAll_completes o es hb

end Sys2Proof.Machine
end

section
/-! PROOFS. Samples and passes: what SAMPLE does in a pass, and what any events inside a pass leave
(obligations O31 and O45). -/

namespace Sys2Proof.Machine

variable {p : Params}

/-! The two engines of SAMPLE in a pass. -/

theorem takeSample_tri {b : Block p} (o : Operands p) (active : b.has .active = true) (tri : b.ac.mode = modeTri) :
    takeSample o b = .ok (sampleTri o (b.putSeen true)) := by
  simp [takeSample, active, tri]

theorem takeSample_pam3 {b : Block p} (o : Operands p) (active : b.has .active = true)
    (pam : b.ac.mode = modePam3) : takeSample o b = .ok (samplePam3 o (b.putSeen true)) := by
  simp [takeSample, active, pam, modeTri_ne_modePam3.symm]

/-- A code in the tolerance band of a symbol keeps it (rules R132, R133). -/
theorem triNext_of_inBand {w : Nat} {ac : ConfigRegs w} {h : Symbol} {v : BitVec w} (band : inBand ac h v) :
    triNext ac h (sint v) = h := by
  cases h with
  | zero =>
    obtain ⟨above, below⟩ : ac.enterLo.toInt ≤ v.toInt ∧ v.toInt ≤ ac.enterHi.toInt := band
    simp [triNext, sint_eq_toInt, above.not_gt, below.not_gt]
  | pos =>
    have above : ac.exitHi.toInt ≤ v.toInt := band
    simp [triNext, sint_eq_toInt, above]
  | neg =>
    have below : v.toInt ≤ ac.exitLo.toInt := band
    simp [triNext, sint_eq_toInt, below]

/-- Settles O31, by induction on the samples: each keeps ACTIVE, AC and H and appends its record. -/
theorem hysteresisHoldsInBand : Obligations.HysteresisHoldsInBand := by
  intro p b o samples active tri band
  induction samples generalizing b o with
  | nil => exact ⟨b, o, rfl, rfl, by simp⟩
  | cons x xs ih =>
    obtain ⟨bandHead, bandTail⟩ := List.forall_mem_cons.mp band
    have keep : triNext b.ac b.h (sint x.2.si) = b.h := triNext_of_inBand bandHead
    have hexec (es) : exec (.sample x.1) ⟨p, b, x.2, es⟩ =
        .next ⟨p, sampleTri x.2 (b.putSeen true), x.2, es⟩ :=
      exec_sample_eq_of_ok x.1 (takeSample_tri x.2 active tri)
    obtain ⟨b', o', hrun, hh, hout⟩ :=
      ih (sampleTri x.2 (b.putSeen true)) x.2 active tri (by simpa [keep] using bandTail)
    refine ⟨b', o', ?_, ?_, ?_⟩
    · rw [List.map_cons, runAll_sampleEvent (hexec _), hrun]
    · simpa [keep] using hh
    · simpa [keep, triRecord] using hout

/-! The records and the symbol of a pass from the middle of it, where H need not be 0. -/

/-- `passRecords` from the symbol `h`. -/
def recordsFrom (ac : ConfigRegs p.sampleW) (h : Symbol) (samples : List (Operands p)) : List (Record p.tsW) :=
  if ac.mode = modePam3 then samples.map (pamRecord ac)
  else List.zipWith triRecord samples (triSymbols ac h (samples.map (·.si)))

/-- H after samples from the symbol `h`: a PAM3 pass does not write it (rule R139). -/
def symbolAfter (ac : ConfigRegs p.sampleW) (h : Symbol) (samples : List (Operands p)) : Symbol :=
  if ac.mode = modePam3 then h else triFinal ac h (samples.map (·.si))

/-- A pass begins with H at 0 (rule R104). -/
theorem recordsFrom_zero (ac : ConfigRegs p.sampleW) (samples : List (Operands p)) :
    recordsFrom ac .zero samples = passRecords ac samples := rfl

@[simp] theorem recordsFrom_nil (ac : ConfigRegs p.sampleW) (h : Symbol) : recordsFrom ac h [] = [] := by
  simp [recordsFrom]

@[simp] theorem symbolAfter_nil (ac : ConfigRegs p.sampleW) (h : Symbol) : symbolAfter ac h [] = h := by
  simp [symbolAfter, triFinal]

theorem length_triSymbols {w : Nat} (ac : ConfigRegs w) (h : Symbol) (vs : List (BitVec w)) :
    (triSymbols ac h vs).length = vs.length := by
  induction vs generalizing h with
  | nil => rfl
  | cons v vs ih => simp [triSymbols, ih]

theorem triSymbols_append {w : Nat} (ac : ConfigRegs w) (h : Symbol) (vs us : List (BitVec w)) :
    triSymbols ac h (vs ++ us) = triSymbols ac h vs ++ triSymbols ac (triFinal ac h vs) us := by
  induction vs generalizing h with
  | nil => rfl
  | cons v vs ih => simp [triSymbols, triFinal, ih]

theorem triFinal_append {w : Nat} (ac : ConfigRegs w) (h : Symbol) (vs us : List (BitVec w)) :
    triFinal ac h (vs ++ us) = triFinal ac (triFinal ac h vs) us := by
  induction vs generalizing h with
  | nil => rfl
  | cons v vs ih => simp [triFinal, ih]

/-- The records of a pass cut in two: the second part goes on from the symbol the earlier part leaves. -/
theorem recordsFrom_append (ac : ConfigRegs p.sampleW) (h : Symbol) (xs ys : List (Operands p)) :
    recordsFrom ac h (xs ++ ys) = recordsFrom ac h xs ++ recordsFrom ac (symbolAfter ac h xs) ys := by
  by_cases pam : ac.mode = modePam3
  · simp [recordsFrom, pam]
  · have sameLength : xs.length = (triSymbols ac h (xs.map (·.si))).length := by simp [length_triSymbols]
    simp [recordsFrom, symbolAfter, pam, triSymbols_append, List.zipWith_append sameLength]

theorem symbolAfter_append (ac : ConfigRegs p.sampleW) (h : Symbol) (xs ys : List (Operands p)) :
    symbolAfter ac h (xs ++ ys) = symbolAfter ac (symbolAfter ac h xs) ys := by
  by_cases pam : ac.mode = modePam3
  · simp [symbolAfter, pam]
  · simp [symbolAfter, pam, triFinal_append]

/-- A pass of the block `b` has gone on to `c` over the samples `xs`: it is still under way with the same
configuration, and H, the records and SEEN are those of the samples. -/
structure PassAdvances (b c : Block p) (xs : List (Operands p)) : Prop where
  active : c.has .active = true
  ac : c.ac = b.ac
  h : c.h = symbolAfter b.ac b.h xs
  out : c.out = b.out ++ recordsFrom b.ac b.h xs
  seen : c.seen = (b.seen || !xs.isEmpty)

/-- What writes neither ACTIVE, AC, H, the records nor SEEN advances a pass over no sample. -/
theorem passAdvances_nil {b c : Block p} (active : c.has .active = true) (ac : c.ac = b.ac) (h : c.h = b.h)
    (out : c.out = b.out) (seen : c.seen = b.seen) : PassAdvances b c [] :=
  ⟨active, ac, by simpa using h, by simpa using out, by simpa using seen⟩

/-- A sample of a legal pass advances it over that sample, whichever engine decides it (rules R131, R137). -/
theorem passAdvances_sample {b : Block p} (x : Operands p) (active : b.has .active = true)
    (legal : cfgValid b.ac = true) : ∃ c, takeSample x b = .ok c ∧ PassAdvances b c [x] := by
  rcases cfgValid_mode legal with tri | pam
  · have notPam : b.ac.mode ≠ modePam3 := tri ▸ modeTri_ne_modePam3
    refine ⟨_, takeSample_tri x active tri, active, rfl, ?_, ?_, ?_⟩
    · simp [symbolAfter, notPam, triFinal]
    · simp [recordsFrom, notPam, triSymbols]
    · simp
  · refine ⟨_, takeSample_pam3 x active pam, active, rfl, ?_, ?_, ?_⟩
    · simp [symbolAfter, pam]
    · simp [recordsFrom, pam]
    · simp

theorem PassAdvances.trans {b c d : Block p} {xs ys : List (Operands p)} (head : PassAdvances b c xs)
    (second : PassAdvances c d ys) : PassAdvances b d (xs ++ ys) where
  active := second.active
  ac := second.ac.trans head.ac
  h := by rw [second.h, head.ac, head.h, symbolAfter_append]
  out := by rw [second.out, head.out, head.ac, head.h, recordsFrom_append, List.append_assoc]
  seen := by rw [second.seen, head.seen]; cases xs <;> simp

/-- Taking an error leaves a pass as it was (rule R160). -/
theorem passAdvances_flag {b : Block p} (active : b.has .active = true) (f : StatusBit) :
    PassAdvances b (b.flag f) [] :=
  passAdvances_nil (by simp [active]) rfl rfl rfl rfl

/-- In a pass a CFG_WRITE reaches the shadow registers or ILL_CMD alone (rules R60, R102). -/
theorem passAdvances_configWrite {b : Block p} (active : b.has .active = true) (a : CfgAddr) (o : Operands p) :
    PassAdvances b (configWrite a o b) [] := by
  rcases configWrite_cases a o b with ⟨r, _, e⟩ | ⟨_, e⟩ <;> rw [e]
  · exact passAdvances_nil active rfl rfl rfl rfl
  · exact passAdvances_flag active .illCmd

theorem startPass_of_active {b : Block p} (active : b.has .active = true) : startPass b = b.flag .seqErr := by
  simp [startPass, active]

/-- Every command but END advances a legal pass over its sample, if it is a SAMPLE. -/
theorem exec_passAdvances {b : Block p} {c : Command p} (es : List (HostEvent p)) (active : b.has .active = true)
    (legal : cfgValid b.ac = true) (stays : (HostEvent.command c).staysInPass = true) :
    ∃ b', exec (decode c.cw) ⟨p, b, c.operands, es⟩ = .next ⟨p, b', c.operands, es⟩ ∧
      PassAdvances b b' (samplesOf [.command c]) := by
  simp only [HostEvent.staysInPass] at stays
  simp only [samplesOf, HostEvent.sampleOperands, List.filterMap_cons, List.filterMap_nil]
  cases hd : decode c.cw with
  | nop a => exact ⟨b, exec_nop_eq a _, passAdvances_nil active rfl rfl rfl rfl⟩
  | cfgWrite a => exact ⟨_, exec_cfgWrite_eq a _, passAdvances_configWrite active a c.operands⟩
  | start a =>
    refine ⟨startPass b, exec_start_eq a _, ?_⟩
    rw [startPass_of_active active]
    exact passAdvances_flag active .seqErr
  | sample a =>
    obtain ⟨b', hs, advances⟩ := passAdvances_sample c.operands active legal
    exact ⟨b', exec_sample_eq_of_ok a hs, advances⟩
  | endPass a => simp [hd] at stays
  | rsvd5 a => exact ⟨_, exec_rsvd5_eq a _, passAdvances_flag active .illCmd⟩
  | rsvd67 low => exact ⟨_, exec_rsvd67_eq low _, passAdvances_flag active .illCmd⟩

theorem samplesOf_cons (e : HostEvent p) (es : List (HostEvent p)) :
    samplesOf (e :: es) = samplesOf [e] ++ samplesOf es :=
  List.filterMap_append (l := [e]) (l' := es)

/-- In-pass events run to their end and advance the pass over their samples, whatever events come after. -/
theorem runAll_passAdvances {b : Block p} (o : Operands p) (es after : List (HostEvent p))
    (active : b.has .active = true) (legal : cfgValid b.ac = true) (stays : es.all HostEvent.staysInPass = true) :
    ∃ b' o', runAll ⟨p, b, o, es ++ after⟩ = runAll ⟨p, b', o', after⟩ ∧ PassAdvances b b' (samplesOf es) := by
  induction es generalizing b o with
  | nil => exact ⟨b, o, rfl, passAdvances_nil active rfl rfl rfl rfl⟩
  | cons e es ih =>
    obtain ⟨staysHead, staysTail⟩ : e.staysInPass = true ∧ es.all HostEvent.staysInPass = true := by
      simpa using stays
    cases e with
    | command c =>
      obtain ⟨b₁, hexec, head⟩ := exec_passAdvances (es ++ after) active legal staysHead
      have legal₁ : cfgValid b₁.ac = true := by rw [head.ac]; exact legal
      obtain ⟨b', o', hrun, rest⟩ := ih c.operands head.active legal₁ staysTail
      refine ⟨b', o', ?_, ?_⟩
      · rw [List.cons_append, runAll_command rfl hexec, hrun]
      · rw [samplesOf_cons]; exact head.trans rest
    | reset c => cases staysHead

/-! The two ends of a pass. -/

/-- An accepted START opens a legal pass of the shadow configuration with H at 0 and SEEN clear (rule R104). -/
theorem startPass_accepted {b : Block p} (idle : b.has .active = false) (legal : cfgValid b.sh = true) :
    (startPass b).has .active = true ∧ (startPass b).ac = b.sh ∧ (startPass b).h = .zero ∧
      (startPass b).out = b.out ∧ (startPass b).seen = false := by
  simp [startPass, idle, legal]

/-- END closes a pass, and EMPTY says whether a sample was seen (rule R107). -/
theorem closePass_of_active {b : Block p} (active : b.has .active = true) :
    closePass b = (b.putStatus .active false).putStatus .empty (!b.seen) := by
  simp [closePass, active]

/-- Settles O45: START opens the pass, the events advance it over their samples, END closes it. -/
theorem passEmitsItsRecords : Obligations.PassEmitsItsRecords := by
  intro p b o o₁ o₂ a₁ a₂ es idle legal stays
  obtain ⟨active, hac, hh, hout, hseen⟩ := startPass_accepted idle legal
  have legalStart : cfgValid (startPass b).ac = true := by rw [hac]; exact legal
  obtain ⟨c, oc, hrun, pass⟩ := runAll_passAdvances o₁ es [endEvent a₂ o₂] active legalStart stays
  have closed := closePass_of_active pass.active
  refine ⟨closePass c, ?_, ?_, ?_, ?_, ?_, ?_⟩
  case refine_1 =>
    calc runAll ⟨p, b, o, startEvent a₁ o₁ :: (es ++ [endEvent a₂ o₂])⟩
      _ = runAll ⟨p, startPass b, o₁, es ++ [endEvent a₂ o₂]⟩ := runAll_startEvent (exec_start_eq a₁ _)
      _ = runAll ⟨p, c, oc, [endEvent a₂ o₂]⟩ := hrun
      _ = runAll ⟨p, closePass c, o₂, []⟩ := runAll_endEvent (exec_endPass_eq a₂ _)
      _ = .next ⟨p, closePass c, o₂, []⟩ := runAll_nil _ _
  case refine_2 => rw [closed]; simp [pass.out, hac, hh, hout, recordsFrom_zero]
  case refine_3 => rw [closed]; simp [pass.ac, hac]
  case refine_4 => rw [closed]; simp [pass.h, hac, hh, symbolAfter, modePam3]
  case refine_5 => show (closePass c).has .active = false; simp [closed]
  case refine_6 => show (closePass c).has .empty = _; simp [closed, pass.seen, hseen]

end Sys2Proof.Machine
end

section
/-! PROOFS. Volts to codes, and the configurations made of them: `conv` rounds and saturates, the profiles pass the
START check, the values after reset (obligations O20, O21, O22, O37). -/

namespace Sys2Proof.Machine

variable {p : Params}

/-! Rounding half away from zero (rule R31). -/

theorem roundHalfAway_of_nonneg {a : Int} (b : Nat) (ha : 0 ≤ a) :
    roundHalfAway a b = (2 * a + b) / (2 * b) := if_pos ha

/-- Zero rounds to zero, also at `b = 0`, where division gives 0. -/
theorem roundHalfAway_zero (b : Nat) : roundHalfAway 0 b = 0 := by
  rw [roundHalfAway_of_nonneg b le_rfl]
  rcases Nat.eq_zero_or_pos b with rfl | hb
  · simp
  · exact Int.ediv_eq_zero_of_lt (by omega) (by omega)

/-- Rounding is odd: this is the symmetry of "away from zero". -/
theorem roundHalfAway_neg (a : Int) (b : Nat) : roundHalfAway (-a) b = -roundHalfAway a b := by
  rcases lt_trichotomy a 0 with neg | rfl | pos
  · rw [roundHalfAway_of_nonneg b (by omega), roundHalfAway, if_neg (by omega), neg_neg]
  · simp [roundHalfAway_zero]
  · rw [roundHalfAway_of_nonneg b pos.le, roundHalfAway, if_neg (by omega), neg_neg]

theorem roundHalfAway_nonneg {a : Int} (b : Nat) (ha : 0 ≤ a) : 0 ≤ roundHalfAway a b := by
  rw [roundHalfAway_of_nonneg b ha]
  exact Int.ediv_nonneg (by omega) (by omega)

theorem roundHalfAway_mono_of_nonneg {a c : Int} {b : Nat} (hb : 0 < b) (ha : 0 ≤ a) (hac : a ≤ c) :
    roundHalfAway a b ≤ roundHalfAway c b := by
  rw [roundHalfAway_of_nonneg b ha, roundHalfAway_of_nonneg b (ha.trans hac)]
  exact Int.ediv_le_ediv (by omega) (by omega)

theorem roundHalfAway_mono {a c : Int} {b : Nat} (hb : 0 < b) (hac : a ≤ c) :
    roundHalfAway a b ≤ roundHalfAway c b := by
  rcases le_total 0 a with ha | ha
  · exact roundHalfAway_mono_of_nonneg hb ha hac
  · have flipA := roundHalfAway_neg a b
    rcases le_total 0 c with hc | hc
    · have nonnegA := roundHalfAway_nonneg b (neg_nonneg.mpr ha)
      have nonnegC := roundHalfAway_nonneg b hc
      omega
    · have flipC := roundHalfAway_neg c b
      have flipped := roundHalfAway_mono_of_nonneg hb (neg_nonneg.mpr hc) (neg_le_neg hac)
      omega

/-- `n` is an integer nearest to `a / b`, and the one farther from zero when `a / b` lies halfway (rule R31). -/
def IsRoundedQuotient (a b n : Int) : Prop :=
  2 * |b * n - a| ≤ b ∧ (2 * |b * n - a| = b → |a| < |b * n|)

theorem IsRoundedQuotient.neg {a b n : Int} (h : IsRoundedQuotient a b n) : IsRoundedQuotient (-a) b (-n) := by
  have flip : |b * -n - -a| = |b * n - a| := by rw [← abs_neg]; congr 1; ring
  have flipProduct : |b * -n| = |b * n| := by rw [mul_neg, abs_neg]
  rw [IsRoundedQuotient, flip, flipProduct, abs_neg]
  exact h

/-- Division with remainder puts `b * n` in the half-open interval of width `b` about `a`, its upper end included. -/
theorem roundHalfAway_isRoundedQuotient_of_nonneg {a : Int} {b : Nat} (hb : 0 < b) (ha : 0 ≤ a) :
    IsRoundedQuotient a b (roundHalfAway a b) := by
  have hb2 : (0 : Int) < 2 * b := by omega
  have upper := Int.mul_ediv_self_le (x := 2 * a + b) hb2.ne'
  have lower := Int.lt_mul_ediv_self_add (x := 2 * a + b) hb2
  rw [← roundHalfAway_of_nonneg b ha, mul_assoc] at upper lower
  unfold IsRoundedQuotient
  generalize (b : Int) * roundHalfAway a b = m at upper lower ⊢
  rw [abs_of_nonneg ha]
  constructor
  · rcases abs_cases (m - a) with ⟨e, _⟩ | ⟨e, _⟩ <;> omega
  · intro tie
    have above : a < m := by rcases abs_cases (m - a) with ⟨e, _⟩ | ⟨e, _⟩ <;> omega
    exact above.trans_le (le_abs_self m)

theorem roundHalfAway_isRoundedQuotient (a : Int) {b : Nat} (hb : 0 < b) :
    IsRoundedQuotient a b (roundHalfAway a b) := by
  rcases le_total 0 a with ha | ha
  · exact roundHalfAway_isRoundedQuotient_of_nonneg hb ha
  · have flipped := (roundHalfAway_isRoundedQuotient_of_nonneg hb (neg_nonneg.mpr ha)).neg
    rwa [roundHalfAway_neg, neg_neg, neg_neg] at flipped

/-! Clamping to the codes. -/

theorem clampTo_mono {n m lo hi : Int} (range : lo ≤ hi) (h : n ≤ m) : clampTo n lo hi ≤ clampTo m lo hi := by
  unfold clampTo
  split_ifs <;> omega

theorem clampTo_mem {lo hi : Int} (n : Int) (range : lo ≤ hi) : lo ≤ clampTo n lo hi ∧ clampTo n lo hi ≤ hi := by
  unfold clampTo
  split_ifs <;> omega

theorem minCode_le_maxCode (w : Nat) : minCode w ≤ maxCode w := by
  have := Nat.two_pow_pos (w - 1)
  unfold minCode maxCode
  omega

theorem convCode_mem (p : Params) (num : Int) (den : Nat) :
    minCode p.sampleW ≤ convCode p num den ∧ convCode p num den ≤ maxCode p.sampleW :=
  clampTo_mem _ (minCode_le_maxCode _)

/-- A register holds any code of its width, and the reading of rule R10 gives it back. -/
theorem toInt_ofInt_of_isCode {w : Nat} (hw : 0 < w) {n : Int} (lo : minCode w ≤ n) (hi : n ≤ maxCode w) :
    (BitVec.ofInt w n).toInt = n := by
  simp only [minCode, maxCode, Nat.cast_pow, Nat.cast_ofNat] at lo hi
  exact BitVec.toInt_ofInt_eq_self hw lo (by omega)

/-- The register of `conv` reads as the code: nothing is lost after the clamp (rule R31). -/
theorem conv_toInt (hw : 0 < p.sampleW) (num : Int) (den : Nat) : (conv p num den).toInt = convCode p num den :=
  toInt_ofInt_of_isCode hw (convCode_mem p num den).1 (convCode_mem p num den).2

/-- Settles O20: division with remainder for the rounding, and the clamped integer fits the register. -/
theorem convRoundsAndSaturates : Obligations.ConvRoundsAndSaturates := by
  intro p num den ⟨hw, _, hlsb, _⟩ hden a b n
  obtain ⟨nearest, awayOnTie⟩ := roundHalfAway_isRoundedQuotient (num * p.lsbDen) (Nat.mul_pos hden hlsb)
  rw [Nat.cast_mul] at nearest awayOnTie
  refine ⟨nearest, awayOnTie, ?_⟩
  rw [conv_toInt (by omega)]
  simp [convCode, clampTo, minCode, maxCode, n]

/-! The profiles. -/

/-- A larger voltage never has a smaller code. -/
theorem sint_conv_mono (hp : p.wellFormed) {num num' : Int} {den : Nat} (hden : 0 < den) (h : num ≤ num') :
    sint (conv p num den) ≤ sint (conv p num' den) := by
  obtain ⟨hw, _, hlsb, _⟩ := hp
  rw [sint_eq_toInt, sint_eq_toInt, conv_toInt (by omega), conv_toInt (by omega)]
  refine clampTo_mono (minCode_le_maxCode _) (roundHalfAway_mono (Nat.mul_pos hden hlsb) ?_)
  exact Int.mul_le_mul_of_nonneg_right h (Int.natCast_nonneg _)

theorem cfgValid_of_tri {w : Nat} {R : ConfigRegs w} (mode : R.mode = modeTri) (lo : sint R.enterLo ≤ sint R.exitLo)
    (mid : sint R.exitLo ≤ sint R.exitHi) (hi : sint R.exitHi ≤ sint R.enterHi) : cfgValid R = true := by
  simp [cfgValid, mode, lo, mid, hi]

theorem cfgValid_of_pam3 {w : Nat} {R : ConfigRegs w} (mode : R.mode = modePam3)
    (i : sint R.iLower ≤ sint R.iUpper) (q : sint R.qLower ≤ sint R.qUpper) : cfgValid R = true := by
  simp [cfgValid, mode, modeTri_ne_modePam3.symm, i, q]

/-- Settles O21: the thresholds of each profile are codes of ordered voltages. -/
theorem profilesAreLegal : Obligations.ProfilesAreLegal := by
  intro p hp
  have ordered {num num' : Int} (h : num ≤ num') : sint (conv p num 10) ≤ sint (conv p num' 10) :=
    sint_conv_mono hp (by omega) h
  refine ⟨?_, ?_, fun num den hnum hden => ?_⟩
  · exact cfgValid_of_tri rfl (ordered (by omega)) (ordered (by omega)) (ordered (by omega))
  · exact cfgValid_of_pam3 rfl (ordered (by omega)) (ordered (by omega))
  · exact cfgValid_of_tri rfl le_rfl (sint_conv_mono hp hden (by omega)) le_rfl

/-! The values after reset. -/

/-- Settles O22: the fields of `resetBlock`; the codes at 16 bits and 1 mV are quotients without remainder. -/
theorem resetValues : Obligations.ResetValues := by
  refine ⟨fun p => ⟨rfl, rfl, rfl, rfl, rfl, rfl⟩, fun t => ?_⟩
  have code (num : Int) : (conv ⟨16, t, 1, 1000⟩ num 10).toInt =
      clampTo (roundHalfAway (num * 1000) 10) (minCode 16) (maxCode 16) :=
    conv_toInt (p := ⟨16, t, 1, 1000⟩) (by simp) num 10
  simp only [resetConfig, code]
  decide

theorem resetOf_inv (hp : p.wellFormed) : (State.resetOf p).Inv := ⟨hp, resetBlock_inv⟩

/-- Settles O37: `resetOf_inv`, at `State.reset` for the parameters of `Config.params`. -/
theorem invariantAtReset : Obligations.InvariantAtReset :=
  ⟨fun _ hp => resetOf_inv hp, resetOf_inv (by decide)⟩

end Sys2Proof.Machine
end

section
/-! PROOFS. What each command leaves unchanged: the sticky bits, the writers of each piece of state, and the records
(obligations O41, O42, O43). -/

namespace Sys2Proof.Machine

variable {p : Params}

/-- What a command does to a block when it gives a next state, one rule per row of the opcode table. -/
inductive BlockStep (o : Operands p) (b : Block p) : Instr → Block p → Prop where
  | nop (a : CfgAddr) : BlockStep o b (.nop a) b
  | cfgWrite (a : CfgAddr) : BlockStep o b (.cfgWrite a) (configWrite a o b)
  | start (a : CfgAddr) : BlockStep o b (.start a) (startPass b)
  | sample (a : CfgAddr) {c : Block p} (taken : takeSample o b = .ok c) : BlockStep o b (.sample a) c
  | endPass (a : CfgAddr) : BlockStep o b (.endPass a) (closePass b)
  | rsvd5 (a : CfgAddr) : BlockStep o b (.rsvd5 a) (b.flag .illCmd)
  | rsvd67 (low : BitVec 5) : BlockStep o b (.rsvd67 low) (b.flag .illCmd)

/-- `exec` is the block operation of the command's row, in the machine as it was otherwise. -/
theorem exec_next_iff {b : Block p} {o : Operands p} {es : List (HostEvent p)} {i : Instr} {t : State} :
    exec i ⟨p, b, o, es⟩ = .next t ↔ ∃ b', t = ⟨p, b', o, es⟩ ∧ BlockStep o b i b' := by
  constructor
  · intro h
    cases i with
    | nop a => cases h; exact ⟨_, rfl, .nop a⟩
    | cfgWrite a => cases h; exact ⟨_, rfl, .cfgWrite a⟩
    | start a => cases h; exact ⟨_, rfl, .start a⟩
    | sample a =>
      obtain ⟨c, taken, rfl⟩ := exec_sample_next h
      exact ⟨c, rfl, .sample a taken⟩
    | endPass a => cases h; exact ⟨_, rfl, .endPass a⟩
    | rsvd5 a => cases h; exact ⟨_, rfl, .rsvd5 a⟩
    | rsvd67 low => cases h; exact ⟨_, rfl, .rsvd67 low⟩
  · rintro ⟨b', rfl, hstep⟩
    cases hstep with
    | sample a taken => exact exec_sample_eq_of_ok a taken
    | _ => rfl

/-- The form for a statement that names the next block. -/
theorem blockStep_of_exec {b b' : Block p} {o : Operands p} {es : List (HostEvent p)} {i : Instr}
    (h : exec i ⟨p, b, o, es⟩ = .next ⟨p, b', o, es⟩) : BlockStep o b i b' := by
  obtain ⟨c, same, hstep⟩ := exec_next_iff.mp h
  cases same
  exact hstep

/-! The pieces of state that CFG_WRITE, START, END and SAMPLE do not write (rules R60, R104, R107, R130). -/

@[simp] theorem configWrite_ac (a : CfgAddr) (o : Operands p) (b : Block p) : (configWrite a o b).ac = b.ac := by
  rcases configWrite_cases a o b with ⟨_, _, e⟩ | ⟨_, e⟩ <;> simp [e]
@[simp] theorem configWrite_h (a : CfgAddr) (o : Operands p) (b : Block p) : (configWrite a o b).h = b.h := by
  rcases configWrite_cases a o b with ⟨_, _, e⟩ | ⟨_, e⟩ <;> simp [e]
@[simp] theorem configWrite_seen (a : CfgAddr) (o : Operands p) (b : Block p) :
    (configWrite a o b).seen = b.seen := by
  rcases configWrite_cases a o b with ⟨_, _, e⟩ | ⟨_, e⟩ <;> simp [e]
@[simp] theorem configWrite_out (a : CfgAddr) (o : Operands p) (b : Block p) : (configWrite a o b).out = b.out := by
  rcases configWrite_cases a o b with ⟨_, _, e⟩ | ⟨_, e⟩ <;> simp [e]

@[simp] theorem startPass_sh (b : Block p) : (startPass b).sh = b.sh := by
  rcases startPass_cases b with ⟨_, e⟩ | ⟨_, _, e⟩ | ⟨_, _, e⟩ <;> simp [e]
@[simp] theorem startPass_out (b : Block p) : (startPass b).out = b.out := by
  rcases startPass_cases b with ⟨_, e⟩ | ⟨_, _, e⟩ | ⟨_, _, e⟩ <;> simp [e]

@[simp] theorem closePass_sh (b : Block p) : (closePass b).sh = b.sh := by
  rcases closePass_cases b with ⟨_, e⟩ | ⟨_, e⟩ <;> simp [e]
@[simp] theorem closePass_ac (b : Block p) : (closePass b).ac = b.ac := by
  rcases closePass_cases b with ⟨_, e⟩ | ⟨_, e⟩ <;> simp [e]
@[simp] theorem closePass_h (b : Block p) : (closePass b).h = b.h := by
  rcases closePass_cases b with ⟨_, e⟩ | ⟨_, e⟩ <;> simp [e]
@[simp] theorem closePass_seen (b : Block p) : (closePass b).seen = b.seen := by
  rcases closePass_cases b with ⟨_, e⟩ | ⟨_, e⟩ <;> simp [e]
@[simp] theorem closePass_out (b : Block p) : (closePass b).out = b.out := by
  rcases closePass_cases b with ⟨_, e⟩ | ⟨_, e⟩ <;> simp [e]

theorem takeSample_config {o : Operands p} {b c : Block p} (h : takeSample o b = .ok c) :
    c.sh = b.sh ∧ c.ac = b.ac := by
  rcases takeSample_cases o b with ⟨_, e⟩ | ⟨_, _, e⟩ | ⟨_, _, e⟩ | ⟨_, _, _, e⟩ <;> rw [e] at h <;> cases h <;>
    exact ⟨rfl, rfl⟩

/-! STATUS, by the table of rule R34: what an operation does to each bit. -/

/-- From `b` to `c` only the bits of `written` are set or cleared and only those of `raised` set; every other bit,
bits 7 to 5 included, is as it was. -/
structure StatusEffect (b c : Block p) (written raised : List StatusBit) : Prop where
  kept : ∀ f, f ∉ written → f ∉ raised → c.has f = b.has f
  sticky : ∀ f ∈ raised, b.has f = true → c.has f = true
  reserved : c.status.extractLsb' 5 3 = b.status.extractLsb' 5 3

theorem StatusEffect.of_status_eq {b c : Block p} {written raised : List StatusBit} (h : c.status = b.status) :
    StatusEffect b c written raised where
  kept f _ _ := by simp [Block.has, h]
  sticky f _ set := by simpa [Block.has, h] using set
  reserved := by rw [h]

/-- Taking an error sets its own bit (rules R160, R165). -/
theorem statusEffect_flag (b : Block p) {f : StatusBit} {written raised : List StatusBit} (hf : f ∈ raised) :
    StatusEffect b (b.flag f) written raised where
  kept g _ notRaised := by
    have other : g ≠ f := fun same => notRaised (same ▸ hf)
    simp [other]
  sticky g _ set := by simp [set]
  reserved := by simp

theorem statusEffect_configWrite (a : CfgAddr) (o : Operands p) (b : Block p) :
    StatusEffect b (configWrite a o b) [] [.illCmd] := by
  rcases configWrite_cases a o b with ⟨_, _, e⟩ | ⟨_, e⟩ <;> rw [e]
  · exact .of_status_eq rfl
  · exact statusEffect_flag b (by simp)

/-- START alone writes ACTIVE, CFG_ERR and EMPTY together (rule R104); in a pass it is an error (rule R106). -/
theorem statusEffect_startPass (b : Block p) :
    StatusEffect b (startPass b) [.active, .cfgErr, .empty] [.seqErr] := by
  rcases startPass_cases b with ⟨_, e⟩ | ⟨_, _, e⟩ | ⟨_, _, e⟩ <;> rw [e]
  · exact statusEffect_flag b (by simp)
  all_goals
    constructor
    case kept => intro f; cases f <;> simp
    case sticky => simp
    case reserved => simp

theorem statusEffect_closePass (b : Block p) : StatusEffect b (closePass b) [.active, .empty] [.seqErr] := by
  rcases closePass_cases b with ⟨_, e⟩ | ⟨_, e⟩ <;> rw [e]
  · constructor
    case kept => intro f; cases f <;> simp
    case sticky => simp
    case reserved => simp
  · exact statusEffect_flag b (by simp)

/-- A sample of a pass writes no STATUS bit; outside one it is an error (rule R130). -/
theorem statusEffect_takeSample {o : Operands p} {b c : Block p} (h : takeSample o b = .ok c) :
    StatusEffect b c [] [.seqErr] := by
  rcases takeSample_cases o b with ⟨_, e⟩ | ⟨_, _, e⟩ | ⟨_, _, e⟩ | ⟨_, _, _, e⟩ <;> rw [e] at h <;> cases h
  · exact statusEffect_flag b (by simp)
  · exact .of_status_eq rfl
  · exact .of_status_eq rfl

/-- The bits a command can both set and clear (rule R34). -/
def bitsWritten : Instr → List StatusBit
  | .start _ => [.active, .cfgErr, .empty]
  | .endPass _ => [.active, .empty]
  | .nop _ => []
  | .cfgWrite _ => []
  | .sample _ => []
  | .rsvd5 _ => []
  | .rsvd67 _ => []

/-- The bits a command can set and not clear: its error (rules R34, R165). -/
def bitsRaised : Instr → List StatusBit
  | .start _ => [.seqErr]
  | .sample _ => [.seqErr]
  | .endPass _ => [.seqErr]
  | .cfgWrite _ => [.illCmd]
  | .rsvd5 _ => [.illCmd]
  | .rsvd67 _ => [.illCmd]
  | .nop _ => []

/-- The table of rule R34 holds of every command. -/
theorem BlockStep.statusEffect {o : Operands p} {b c : Block p} {i : Instr} (h : BlockStep o b i c) :
    StatusEffect b c (bitsWritten i) (bitsRaised i) := by
  cases h with
  | nop a => exact .of_status_eq rfl
  | cfgWrite a => exact statusEffect_configWrite a o b
  | start a => exact statusEffect_startPass b
  | sample a taken => exact statusEffect_takeSample taken
  | endPass a => exact statusEffect_closePass b
  | rsvd5 a => exact statusEffect_flag b (by simp [bitsRaised])
  | rsvd67 low => exact statusEffect_flag b (by simp [bitsRaised])

/-- A bit that a command does not write stays set: it can be raised only. -/
theorem BlockStep.has_of_notWritten {o : Operands p} {b c : Block p} {i : Instr} (h : BlockStep o b i c)
    {f : StatusBit} (notWritten : f ∉ bitsWritten i) (set : b.has f = true) : c.has f = true := by
  by_cases raised : f ∈ bitsRaised i
  · exact h.statusEffect.sticky f raised set
  · rw [h.statusEffect.kept f notWritten raised, set]

theorem seqErr_notWritten (i : Instr) : StatusBit.seqErr ∉ bitsWritten i := by cases i <;> simp [bitsWritten]
theorem illCmd_notWritten (i : Instr) : StatusBit.illCmd ∉ bitsWritten i := by cases i <;> simp [bitsWritten]

/-- Settles O41: no command writes SEQ_ERR or ILL_CMD other than by raising it; a reset clears STATUS. -/
theorem stickyBitsClearedByResetOnly : Obligations.StickyBitsClearedByResetOnly := by
  intro p b b' o o' es es'
  constructor
  · intro c h
    obtain ⟨d, same, hstep⟩ :=
      exec_next_iff.mp (show exec (decode c.cw) ⟨p, b, c.operands, es⟩ = .next ⟨p, b', o', es'⟩ from h)
    cases same
    exact ⟨hstep.has_of_notWritten (seqErr_notWritten _), hstep.has_of_notWritten (illCmd_notWritten _)⟩
  · intro c h
    cases h
    exact ⟨has_resetBlock .seqErr, has_resetBlock .illCmd⟩

/-- A STATUS bit that a command changed is one of the command's row in the table of rule R34. -/
theorem BlockStep.mem_of_has_ne {o : Operands p} {b c : Block p} {i : Instr} (h : BlockStep o b i c)
    {f : StatusBit} (changed : c.has f ≠ b.has f) : f ∈ bitsWritten i ++ bitsRaised i := by
  by_contra hf
  obtain ⟨notWritten, notRaised⟩ := not_or.mp (mt List.mem_append.mpr hf)
  exact changed (h.statusEffect.kept f notWritten notRaised)

/-! The table of rule R34 read by its columns. -/

theorem writers_of_active {i : Instr} (h : StatusBit.active ∈ bitsWritten i ++ bitsRaised i) :
    (∃ a, i = .start a) ∨ ∃ a, i = .endPass a := by
  cases i <;> simp_all [bitsWritten, bitsRaised]

theorem writers_of_cfgErr {i : Instr} (h : StatusBit.cfgErr ∈ bitsWritten i ++ bitsRaised i) :
    ∃ a, i = .start a := by
  cases i <;> simp_all [bitsWritten, bitsRaised]

theorem writers_of_empty {i : Instr} (h : StatusBit.empty ∈ bitsWritten i ++ bitsRaised i) :
    (∃ a, i = .start a) ∨ ∃ a, i = .endPass a := by
  cases i <;> simp_all [bitsWritten, bitsRaised]

theorem writers_of_seqErr {i : Instr} (h : StatusBit.seqErr ∈ bitsWritten i ++ bitsRaised i) :
    (∃ a, i = .start a) ∨ (∃ a, i = .sample a) ∨ ∃ a, i = .endPass a := by
  cases i <;> simp_all [bitsWritten, bitsRaised]

theorem writers_of_illCmd {i : Instr} (h : StatusBit.illCmd ∈ bitsWritten i ++ bitsRaised i) :
    (∃ a, i = .cfgWrite a) ∨ (∃ a, i = .rsvd5 a) ∨ ∃ l, i = .rsvd67 l := by
  cases i <;> simp_all [bitsWritten, bitsRaised]

/-! The writers of each other piece of state. -/

section
variable {o : Operands p} {b c : Block p} {i : Instr}

theorem BlockStep.writers_of_sh (h : BlockStep o b i c) (changed : c.sh ≠ b.sh) : ∃ a, i = .cfgWrite a := by
  cases h with
  | cfgWrite a => exact ⟨a, rfl⟩
  | sample a taken => exact absurd (takeSample_config taken).1 changed
  | _ => simp at changed

theorem BlockStep.writers_of_ac (h : BlockStep o b i c) (changed : c.ac ≠ b.ac) : ∃ a, i = .start a := by
  cases h with
  | start a => exact ⟨a, rfl⟩
  | sample a taken => exact absurd (takeSample_config taken).2 changed
  | _ => simp at changed

theorem BlockStep.writers_of_h (h : BlockStep o b i c) (changed : c.h ≠ b.h) :
    (∃ a, i = .start a) ∨ ∃ a, i = .sample a := by
  cases h with
  | start a => exact .inl ⟨a, rfl⟩
  | sample a taken => exact .inr ⟨a, rfl⟩
  | _ => simp at changed

theorem BlockStep.writers_of_seen (h : BlockStep o b i c) (changed : c.seen ≠ b.seen) :
    (∃ a, i = .start a) ∨ ∃ a, i = .sample a := by
  cases h with
  | start a => exact .inl ⟨a, rfl⟩
  | sample a taken => exact .inr ⟨a, rfl⟩
  | _ => simp at changed

theorem BlockStep.writers_of_out (h : BlockStep o b i c) (changed : c.out ≠ b.out) : ∃ a, i = .sample a := by
  cases h with
  | sample a taken => exact ⟨a, rfl⟩
  | _ => simp at changed

end

/-- Settles O42: the writers of each piece of state, and for STATUS the table of rule R34. -/
theorem stateWrittenByItsCommandsOnly : Obligations.StateWrittenByItsCommandsOnly := by
  intro p b o es i t h
  obtain ⟨b', rfl, hstep⟩ := exec_next_iff.mp h
  exact ⟨b', rfl, hstep.writers_of_sh, hstep.writers_of_ac, hstep.writers_of_h, hstep.writers_of_seen,
    hstep.writers_of_out,
    fun changed => writers_of_active (hstep.mem_of_has_ne changed),
    fun changed => writers_of_cfgErr (hstep.mem_of_has_ne changed),
    fun changed => writers_of_empty (hstep.mem_of_has_ne changed),
    fun changed => writers_of_seqErr (hstep.mem_of_has_ne changed),
    fun changed => writers_of_illCmd (hstep.mem_of_has_ne changed),
    hstep.statusEffect.reserved⟩

/-! Records. -/

/-- Both engines emit one record that carries the sample's own OFS and DUR (rule R141). -/
theorem takeSample_out_of_active {o : Operands p} {b c : Block p} (active : b.has .active = true)
    (h : takeSample o b = .ok c) : ∃ r, c.out = b.out ++ [r] ∧ r.ofs = o.ofs ∧ r.dur = o.dur := by
  rcases takeSample_cases o b with ⟨idle, _⟩ | ⟨_, _, e⟩ | ⟨_, _, e⟩ | ⟨_, _, _, e⟩
  · simp [active] at idle
  · rw [e] at h; cases h; exact ⟨_, rfl, rfl, rfl⟩
  · rw [e] at h; cases h; exact ⟨_, rfl, rfl, rfl⟩
  · rw [e] at h; cases h

theorem takeSample_of_idle {b : Block p} (o : Operands p) (idle : b.has .active = false) :
    takeSample o b = .ok (b.flag .seqErr) := by
  simp [takeSample, idle]

/-- Settles O43: the engines for a SAMPLE in a pass, the error of one outside, and `writers_of_out` for the rest. -/
theorem oneRecordPerSampleInAPass : Obligations.OneRecordPerSampleInAPass := by
  intro p b b' o es i h
  have hstep := blockStep_of_exec h
  constructor
  · rintro ⟨⟨a, rfl⟩, active⟩
    cases hstep with
    | sample _ taken => exact takeSample_out_of_active active taken
  · intro notInPass
    by_contra changed
    obtain ⟨a, rfl⟩ := hstep.writers_of_out changed
    have idle : b.has .active = false := by
      by_contra active
      exact notInPass ⟨⟨a, rfl⟩, Bool.eq_true_of_not_eq_false active⟩
    cases hstep with
    | sample _ taken =>
      rw [takeSample_of_idle o idle] at taken
      cases taken
      exact changed rfl

end Sys2Proof.Machine
end

section
/-! PROOFS. Passes of one configuration over the same samples, and several instances (obligations O46, O52). -/

namespace Sys2Proof.Machine

variable {p : Params}

/-- Settles O46: the records and H of a pass are functions of the latched configuration and the samples
(`passEmitsItsRecords`), and these read of the samples only what the two passes share. -/
theorem passesAreDeterministic : Obligations.PassesAreDeterministic := by
  intro p b c o o₁ o₂ q q₁ q₂ a₁ a₂ d₁ d₂ es fs idleB idleC sameSh legal staysE staysF sameRead sameSq
  obtain ⟨b', runB, outB, _, hB, _, _⟩ := passEmitsItsRecords p b o o₁ o₂ a₁ a₂ es idleB legal staysE
  obtain ⟨c', runC, outC, _, hC, _, _⟩ := passEmitsItsRecords p c q q₁ q₂ d₁ d₂ fs idleC (sameSh ▸ legal) staysF
  have sameRecords : passRecords b.sh (samplesOf es) = passRecords b.sh (samplesOf fs) :=
    passRecords_congr sameRead sameSq
  have sameSi : (samplesOf es).map (·.si) = (samplesOf fs).map (·.si) := by
    simpa [Function.comp_def] using congrArg (List.map (·.1)) sameRead
  refine ⟨b', c', passRecords b.sh (samplesOf es), runB, runC, outB, ?_, ?_⟩
  · rw [outC, ← sameSh, sameRecords]
  · rw [hB, hC, ← sameSh, sameSi]

/-- Settles O52: the step of machine `k` is a write at place `k` of the list. -/
theorem instancesShareNoState : Obligations.InstancesShareNoState := by
  intro k instances s t hk hstep
  obtain ⟨inRange, _⟩ := List.getElem?_eq_some_iff.mp hk
  refine ⟨instances.set k t, ?_, ?_, ?_, ?_⟩
  · simp only [stepInstance, hk, hstep]
  · exact List.getElem?_set_self inRange
  · exact List.length_set
  · exact fun j hj => List.getElem?_set_ne hj.symm

end Sys2Proof.Machine
end

section
/-! PROOFS. The byte form of a command word (obligation O3). -/

namespace Sys2Proof

/-- Bit 7 of a byte is set exactly above 0x7F. -/
theorem byte_msb_eq (b : Byte) : b.msb = decide (128 ≤ b.toNat) := by simp [BitVec.msb_eq_decide]

/-- Reading a byte: rejected above 0x7F, a command of its low seven bits otherwise. -/
theorem decodeBytes_cons (b : Byte) (rest : List Byte) :
    decodeBytes (b :: rest) =
      if 128 ≤ b.toNat then .error (.notACommandWord b) else .ok (decode (b.setWidth 7), rest) := by
  simp [decodeBytes, byte_msb_eq]

/-- Settles O3: the two branches of `decodeBytes_cons`. -/
theorem byteDecoderRejects : Obligations.ByteDecoderRejects := by
  refine ⟨rfl, fun b rest above => ?_, fun b rest below => ⟨decode (b.setWidth 7), ?_⟩⟩
  · rw [decodeBytes_cons, if_pos above]
  · rw [decodeBytes_cons, if_neg below.not_ge]

end Sys2Proof
end

section
/-! PROOFS. Configuration writes: a write repeated, and writes inside a pass (obligations O13 and O48). -/

namespace Sys2Proof.Machine

variable {p : Params}

/-! A write repeated. -/

/-- The last write of a register stands. -/
theorem writeReg_writeReg_same {w : Nat} (regs : ConfigRegs w) (r : CfgReg) (d e : BitVec w) :
    writeReg (writeReg regs r d) r e = writeReg regs r e := by
  cases r <;> rfl

theorem writeStatus_true_twice (w : StatusWord) (f : StatusBit) :
    writeStatus (writeStatus w f true) f true = writeStatus w f true := by
  simp [writeStatus, BitVec.or_assoc]

/-- An error taken again sets a bit that is set already (rule R165). -/
theorem flag_flag_same (b : Block p) (f : StatusBit) : (b.flag f).flag f = b.flag f := by
  simp [Block.flag, Block.putStatus, writeStatus_true_twice]

/-- An implemented address rewrites its register, a reserved one sets ILL_CMD again (rule R56). -/
theorem configWrite_configWrite_same (a : CfgAddr) (o : Operands p) (b : Block p) :
    configWrite a o (configWrite a o b) = configWrite a o b := by
  unfold configWrite
  cases cfgRegAt a with
  | some r => simp [Block.writeShadow, writeReg_writeReg_same]
  | none => exact flag_flag_same b .illCmd

/-- Settles O13: `configWrite_configWrite_same`, as `exec` keeps the ports. -/
theorem configWriteIdempotent : Obligations.ConfigWriteIdempotent := by
  intro a s
  refine ⟨s.withBlock (configWrite a s.ports s.block), exec_cfgWrite_eq a s, ?_⟩
  calc exec (.cfgWrite a) (s.withBlock (configWrite a s.ports s.block))
    _ = .next (s.withBlock (configWrite a s.ports (configWrite a s.ports s.block))) := exec_cfgWrite_eq a _
    _ = .next (s.withBlock (configWrite a s.ports s.block)) := by rw [configWrite_configWrite_same]

/-! The shadow registers are not read in a pass (rule R60). -/

/-- The block with other shadow registers. -/
def Block.withShadow (b : Block p) (sh : ConfigRegs p.sampleW) : Block p := { b with sh := sh }

theorem agreeButShadow_withShadow (b : Block p) (sh : ConfigRegs p.sampleW) :
    agreeButShadow b (b.withShadow sh) := ⟨rfl, rfl, rfl, rfl, rfl⟩

/-- CFG_WRITE to an implemented address writes the shadow registers alone (rule R101). -/
theorem configWrite_withShadow_of_implemented {a : CfgAddr} (implemented : a.toNat ≤ 8) (o : Operands p)
    (b : Block p) (sh : ConfigRegs p.sampleW) : (configWrite a o b).withShadow sh = b.withShadow sh := by
  rcases configWrite_cases a o b with ⟨r, _, e⟩ | ⟨reserved, _⟩
  · rw [e]; rfl
  · have := (cfgRegAt_eq_none_iff a).mp reserved
    omega

/-- CFG_WRITE to a reserved address is an error and reads no register (rule R102). -/
theorem configWrite_withShadow_of_reserved {a : CfgAddr} (reserved : 9 ≤ a.toNat) (o : Operands p) (b : Block p)
    (sh : ConfigRegs p.sampleW) : (configWrite a o b).withShadow sh = configWrite a o (b.withShadow sh) := by
  simp only [configWrite, (cfgRegAt_eq_none_iff a).mpr reserved]
  rfl

/-- START, which checks and latches the shadow registers while idle, is an error in a pass (rule R106). -/
theorem startPass_withShadow_of_active {b : Block p} (active : b.has .active = true) (sh : ConfigRegs p.sampleW) :
    (startPass b).withShadow sh = startPass (b.withShadow sh) := by
  rw [startPass_of_active active, startPass_of_active (b := b.withShadow sh) active]
  rfl

theorem closePass_withShadow_of_active {b : Block p} (active : b.has .active = true) (sh : ConfigRegs p.sampleW) :
    (closePass b).withShadow sh = closePass (b.withShadow sh) := by
  rw [closePass_of_active active, closePass_of_active (b := b.withShadow sh) active]
  rfl

/-- A sample decides under the active registers (rules R60, R130). -/
theorem takeSample_withShadow {o : Operands p} {b c : Block p} (taken : takeSample o b = .ok c)
    (sh : ConfigRegs p.sampleW) : takeSample o (b.withShadow sh) = .ok (c.withShadow sh) := by
  rcases takeSample_cases o b with ⟨idle, e⟩ | ⟨active, tri, e⟩ | ⟨active, pam, e⟩ | ⟨_, _, _, e⟩ <;>
    rw [e] at taken <;> cases taken
  · exact takeSample_of_idle (b := b.withShadow sh) o idle
  · exact takeSample_tri (b := b.withShadow sh) o active tri
  · exact takeSample_pam3 (b := b.withShadow sh) o active pam

/-- In a pass a command that writes no shadow register does the same whatever they hold (rules R60, R103). -/
theorem BlockStep.withShadow {o : Operands p} {b c : Block p} {i : Instr} (h : BlockStep o b i c)
    (active : b.has .active = true) (noWrite : ¬∃ a, i = .cfgWrite a ∧ a.toNat ≤ 8) (sh : ConfigRegs p.sampleW) :
    BlockStep o (b.withShadow sh) i (c.withShadow sh) := by
  cases h with
  | nop a => exact .nop a
  | cfgWrite a =>
    have reserved : 9 ≤ a.toNat := not_le.mp fun implemented => noWrite ⟨a, rfl, implemented⟩
    rw [configWrite_withShadow_of_reserved reserved]
    exact .cfgWrite a
  | start a => rw [startPass_withShadow_of_active active]; exact .start a
  | sample a taken => exact .sample a (takeSample_withShadow taken sh)
  | endPass a => rw [closePass_withShadow_of_active active]; exact .endPass a
  | rsvd5 a => exact .rsvd5 a
  | rsvd67 low => exact .rsvd67 low

theorem isConfigWrite_command_iff (c : Command p) :
    (HostEvent.command c).isConfigWrite = true ↔ ∃ a, decode c.cw = .cfgWrite a ∧ a.toNat ≤ 8 := by
  simp only [HostEvent.isConfigWrite]
  cases decode c.cw <;> simp

/-- In-pass events, and the same without their implemented CFG_WRITEs from any shadow registers: both runs end,
in blocks that differ in the shadow registers alone, which the second run never writes. -/
theorem runAll_without_configWrites {b : Block p} (sh : ConfigRegs p.sampleW) (o q : Operands p)
    (es : List (HostEvent p)) (active : b.has .active = true) (legal : cfgValid b.ac = true)
    (stays : es.all HostEvent.staysInPass = true) :
    ∃ b' o' q', runAll ⟨p, b, o, es⟩ = .next ⟨p, b', o', []⟩ ∧
      runAll ⟨p, b.withShadow sh, q, es.filter (fun e => !e.isConfigWrite)⟩ =
        .next ⟨p, b'.withShadow sh, q', []⟩ := by
  induction es generalizing b o q with
  | nil => exact ⟨b, o, q, runAll_nil b o, runAll_nil (b.withShadow sh) q⟩
  | cons e es ih =>
    obtain ⟨staysHead, staysTail⟩ : e.staysInPass = true ∧ es.all HostEvent.staysInPass = true := by
      simpa using stays
    cases e with
    | reset c => cases staysHead
    | command c =>
      obtain ⟨b₁, hexec, advances⟩ := exec_passAdvances es active legal staysHead
      have legal₁ : cfgValid b₁.ac = true := by rw [advances.ac]; exact legal
      rw [runAll_command rfl hexec]
      by_cases write : (HostEvent.command c).isConfigWrite = true
      · obtain ⟨a, hd, implemented⟩ := (isConfigWrite_command_iff c).mp write
        rw [hd] at hexec
        cases hexec
        rw [List.filter_cons_of_neg (by simp [write]),
          ← configWrite_withShadow_of_implemented implemented c.operands b sh]
        exact ih c.operands q advances.active legal₁ staysTail
      · have hstep := (blockStep_of_exec hexec).withShadow active (mt (isConfigWrite_command_iff c).mpr write) sh
        rw [List.filter_cons_of_pos (by simp [write]), runAll_command rfl (exec_next_iff.mpr ⟨_, rfl, hstep⟩)]
        exact ih c.operands c.operands advances.active legal₁ staysTail

/-- Settles O48: `runAll_without_configWrites` from the block's own shadow registers. -/
theorem configWritesDoNotTouchThePass : Obligations.ConfigWritesDoNotTouchThePass := by
  intro p b o es active legal stays
  obtain ⟨b', o', q', hrun, hquiet⟩ := runAll_without_configWrites b.sh o o es active (legal active) stays
  exact ⟨b', b'.withShadow b.sh, o', q', hrun, hquiet, agreeButShadow_withShadow b' b.sh⟩

end Sys2Proof.Machine
end

section
/-! PROOFS. The offsets and durations of a pass's records (obligation O47). -/

namespace Sys2Proof.Machine

variable {p : Params}

/-- What every record of a sample takes from the operands alone, the records of a pass show in the samples' order
(rules R57, R141). -/
theorem map_recordsFrom {α : Type} {f : Record p.tsW → α} {g : Operands p → α} {ac : ConfigRegs p.sampleW}
    (tri : ∀ x s, f (triRecord x s) = g x) (pam : ∀ x, f (pamRecord ac x) = g x) (h : Symbol)
    (samples : List (Operands p)) : (recordsFrom ac h samples).map f = samples.map g := by
  by_cases mode : ac.mode = modePam3
  · simp [recordsFrom, mode, pam]
  · simp only [recordsFrom, mode, if_false]
    induction samples generalizing h with
    | nil => rfl
    | cons x xs ih => simp [triSymbols, tri, ih]

/-- Settles O47: in-pass events advance the pass over their samples, and every record has its sample's OFS and
DUR. -/
theorem offsetsStayOrdered : Obligations.OffsetsStayOrdered := by
  intro p b o es active legal stays
  obtain ⟨b', o', hrun, pass⟩ := runAll_passAdvances o es [] active (legal active) stays
  rw [List.append_nil, runAll_nil] at hrun
  refine ⟨b', o', recordsFrom b.ac b.h (samplesOf es), hrun, pass.out, ?_, ?_, fun ordered => ?_⟩
  · exact map_recordsFrom (fun _ _ => rfl) (fun _ => rfl) b.h _
  · exact map_recordsFrom (fun _ _ => rfl) (fun _ => rfl) b.h _
  · rwa [map_recordsFrom (g := (·.ofs.toNat)) (fun _ _ => rfl) (fun _ => rfl)]

end Sys2Proof.Machine
end

section
/-! PROOFS. The command word: its two fields, the words of each row, and that decoding and encoding invert each other
(obligations O1, O2, O4). -/

namespace Sys2Proof

/-! The fields of a word (rule R70). -/

@[simp] theorem opField_append (op : BitVec 3) (a : CfgAddr) : opField (op ++ a) = op :=
  BitVec.extractLsb'_append_eq_left

@[simp] theorem addrField_append (op : BitVec 3) (a : CfgAddr) : addrField (op ++ a) = a :=
  BitVec.extractLsb'_append_eq_right

/-- A word is its `op` above its `addr`. -/
theorem append_addrField {w : CommandWord} {op : BitVec 3} (h : opField w = op) : op ++ addrField w = w := by
  rw [← h]
  exact (BitVec.extractLsb'_append_extractLsb'_eq_extractLsb' rfl).trans BitVec.extractLsb'_eq_self

/-- The number of a word by its fields, as rule R72 writes its ranges. -/
theorem ofNat_add_addr (op : BitVec 3) (a : CfgAddr) : BitVec.ofNat 7 (op.toNat * 16 + a.toNat) = op ++ a := by
  apply BitVec.eq_of_toNat_eq
  rw [BitVec.toNat_append, ← Nat.shiftLeft_add_eq_or_of_lt a.isLt, Nat.shiftLeft_eq, BitVec.toNat_ofNat]
  have hop := op.isLt
  have ha := a.isLt
  exact Nat.mod_eq_of_lt (by omega)

/-- The two high bits of a word are those of its `op`. -/
theorem high_opField (w : CommandWord) : (opField w).extractLsb' 1 2 = w.extractLsb' 5 2 := by
  ext k hk
  have inside : 1 + k < 3 := by omega
  simp [opField, inside, ← Nat.add_assoc]

/-- The values 6 and 7 of `op` are those whose two high bits are set: the one row of rule R72 with two. -/
theorem high_eq_three_iff (op : BitVec 3) :
    op.extractLsb' 1 2 = 0b11#2 ↔
      op ≠ 0b000#3 ∧ op ≠ 0b001#3 ∧ op ≠ 0b010#3 ∧ op ≠ 0b011#3 ∧ op ≠ 0b100#3 ∧ op ≠ 0b101#3 := by
  revert op; decide

/-- The words of the row `11xxxxx` (rule R72). -/
theorem decode_of_high {w : CommandWord} (h : w.extractLsb' 5 2 = 0b11#2) :
    decode w = .rsvd67 (w.extractLsb' 0 5) := by
  obtain ⟨h0, h1, h2, h3, h4, h5⟩ := (high_eq_three_iff (opField w)).mp ((high_opField w).trans h)
  simp [decode, h0, h1, h2, h3, h4, h5]

/-- A word of the row `11xxxxx` is its two set bits above the five the row leaves open. -/
theorem append_low {w : CommandWord} (h : w.extractLsb' 5 2 = 0b11#2) : 0b11#2 ++ w.extractLsb' 0 5 = w := by
  rw [← h]
  exact (BitVec.extractLsb'_append_extractLsb'_eq_extractLsb' rfl).trans BitVec.extractLsb'_eq_self

/-! Decoding and encoding (rule R78). -/

/-- Decoding reads back the row and the open bits that encoding put together. -/
theorem decode_encode (i : Instr) : decode (encode i) = i := by
  cases i with
  | rsvd67 low =>
    have high : (encode (.rsvd67 low)).extractLsb' 5 2 = 0b11#2 := BitVec.extractLsb'_append_eq_left
    rw [decode_of_high high]
    exact congrArg Instr.rsvd67 BitVec.extractLsb'_append_eq_right
  | _ => simp [decode, encode]

/-- Encoding puts back the bits that decoding read, in each row of rule R72. -/
theorem encode_decode (w : CommandWord) : encode (decode w) = w := by
  rw [decode]
  split_ifs with h0 h1 h2 h3 h4 h5
  · exact append_addrField h0
  · exact append_addrField h1
  · exact append_addrField h2
  · exact append_addrField h3
  · exact append_addrField h4
  · exact append_addrField h5
  · have high := (high_eq_three_iff (opField w)).mpr ⟨h0, h1, h2, h3, h4, h5⟩
    exact append_low ((high_opField w).symm.trans high)

/-- Seven bits in a byte leave its bit 7 clear and are read back (log entry 11). -/
theorem decodeBytes_setWidth (w : CommandWord) (rest : List Byte) :
    decodeBytes (w.setWidth 8 :: rest) = .ok (decode w, rest) := by
  have below : ¬128 ≤ (w.setWidth 8).toNat := by
    have := w.isLt
    rw [BitVec.toNat_setWidth_of_le (by omega)]
    omega
  rw [decodeBytes_cons, if_neg below, BitVec.setWidth_setWidth_of_le w (by omega), BitVec.setWidth_eq]

/-- Settles O1: `decode_encode`, `encode_decode`, and the byte of an encoded word. -/
theorem encodeDecodeAgree : Obligations.EncodeDecodeAgree := by
  refine ⟨fun i => ⟨?_, decode_encode i⟩, encode_decode, fun i rest => ?_⟩
  · cases i <;> rfl
  · calc decodeBytes (encodeBytes i ++ rest)
      _ = .ok (decode (encode i), rest) := decodeBytes_setWidth (encode i) rest
      _ = .ok (i, rest) := by rw [decode_encode]

/-! The words of each row (rule R72). -/

theorem encode_nop (a : CfgAddr) : encode (.nop a) = BitVec.ofNat 7 (0x00 + a.toNat) := (ofNat_add_addr 0 a).symm
theorem encode_cfgWrite (a : CfgAddr) : encode (.cfgWrite a) = BitVec.ofNat 7 (0x10 + a.toNat) :=
  (ofNat_add_addr 1 a).symm
theorem encode_start (a : CfgAddr) : encode (.start a) = BitVec.ofNat 7 (0x20 + a.toNat) :=
  (ofNat_add_addr 2 a).symm
theorem encode_sample (a : CfgAddr) : encode (.sample a) = BitVec.ofNat 7 (0x30 + a.toNat) :=
  (ofNat_add_addr 3 a).symm
theorem encode_endPass (a : CfgAddr) : encode (.endPass a) = BitVec.ofNat 7 (0x40 + a.toNat) :=
  (ofNat_add_addr 4 a).symm
theorem encode_rsvd5 (a : CfgAddr) : encode (.rsvd5 a) = BitVec.ofNat 7 (0x50 + a.toNat) :=
  (ofNat_add_addr 5 a).symm

theorem encode_rsvd67 (l : BitVec 5) : encode (.rsvd67 l) = BitVec.ofNat 7 (0x60 + l.toNat) := by
  have hl := l.isLt
  apply BitVec.eq_of_toNat_eq
  rw [encode, BitVec.toNat_append, ← Nat.shiftLeft_add_eq_or_of_lt hl, BitVec.toNat_ofNat]
  exact (Nat.mod_eq_of_lt (by omega)).symm

/-- Settles O2: each range is the encodings of its row, which decode to what was encoded. -/
theorem opcodeMapWords : Obligations.OpcodeMapWords := by
  refine ⟨fun a => ?_, fun l => ?_, rfl, rfl, rfl, rfl⟩
  · rw [← encode_nop, ← encode_cfgWrite, ← encode_start, ← encode_sample, ← encode_endPass, ← encode_rsvd5]
    exact ⟨decode_encode _, decode_encode _, decode_encode _, decode_encode _, decode_encode _, decode_encode _⟩
  · rw [← encode_rsvd67, decode_encode]

/-! The `addr` field (rule R73). -/

theorem decode_of_opField_one {w : CommandWord} (h : opField w = 1) : decode w = .cfgWrite (addrField w) := by
  simp [decode, h]

/-- The arms of `exec` other than that of CFG_WRITE do not receive the address bits. -/
theorem exec_decode_congr {w v : CommandWord} (s : Machine.State) (same : opField w = opField v)
    (notWrite : opField w ≠ 0b001#3) : Machine.exec (decode w) s = Machine.exec (decode v) s := by
  rw [same] at notWrite
  simp only [decode, same, if_neg notWrite]
  split_ifs <;> rfl

/-- Settles O4: the CFG_WRITE row of `decode`, and `exec_decode_congr` for the others. -/
theorem addrFieldReadByConfigWriteOnly : Obligations.AddrFieldReadByConfigWriteOnly :=
  ⟨fun _ => decode_of_opField_one, fun _ _ s => exec_decode_congr s⟩

end Sys2Proof
end

section
/-! PROOFS. Encodings of symbols and records (obligations O5, O6), and the operand ports a command does not read
(obligation O36). -/

namespace Sys2Proof.Machine

variable {p : Params}

/-- Settles O5: the table of `Symbol.enc`, its reading by rule R10, and that 0b10 is unused. -/
theorem symbolEncodings : Obligations.SymbolEncodings := by
  refine ⟨rfl, rfl, rfl, fun s => ⟨?_, enc_ne_unused s⟩⟩
  rw [← sint_eq_toInt, enc_value]

/-- Settles O6: each field is cut from the two halves of the concatenation it stands in. -/
theorem recordWordFields : Obligations.RecordWordFields := by
  intro t r
  refine ⟨?_, ?_, ?_, ?_⟩
  case refine_1 =>
    calc (recordWord r).extractLsb' 0 2
      _ = (r.ofs ++ (r.s1 ++ r.s0)).extractLsb' 0 2 := BitVec.extractLsb'_append_eq_of_add_le (by omega)
      _ = (r.s1 ++ r.s0).extractLsb' 0 2 := BitVec.extractLsb'_append_eq_of_add_le (by omega)
      _ = r.s0 := BitVec.extractLsb'_append_eq_right
  case refine_2 =>
    calc (recordWord r).extractLsb' 2 2
      _ = (r.ofs ++ (r.s1 ++ r.s0)).extractLsb' 2 2 := BitVec.extractLsb'_append_eq_of_add_le (by omega)
      _ = (r.s1 ++ r.s0).extractLsb' 2 2 := BitVec.extractLsb'_append_eq_of_add_le (by omega)
      _ = r.s1 := BitVec.extractLsb'_append_eq_left
  case refine_3 =>
    calc (recordWord r).extractLsb' 4 t
      _ = (r.ofs ++ (r.s1 ++ r.s0)).extractLsb' 4 t := BitVec.extractLsb'_append_eq_of_add_le (by omega)
      _ = r.ofs := BitVec.extractLsb'_append_eq_left
  case refine_4 =>
    rw [Nat.add_comm 4 t]
    exact BitVec.extractLsb'_append_eq_left

/-! Ports that are not read (rules R71, R74, R75, R102). -/

/-- MODE takes nothing of DATA but its two low bits (rule R74). -/
theorem writeReg_mode_congr {w : Nat} (regs : ConfigRegs w) {d e : BitVec w} (h : modeOperand d = modeOperand e) :
    writeReg regs .mode d = writeReg regs .mode e := by
  simp [writeReg, h]

theorem cfgRegAt_eq_mode {a : CfgAddr} (h : a.toNat = 0) : cfgRegAt a = some .mode := by
  simp [cfgRegAt, h]

theorem configWrite_congr {a : CfgAddr} {b : Block p} {o o' : Operands p}
    (agree : readPortsAgree (.cfgWrite a) b o o') : configWrite a o b = configWrite a o' b := by
  obtain ⟨modeAgrees, dataAgrees⟩ := agree
  rcases Nat.eq_zero_or_pos a.toNat with mode | notMode
  · simp only [configWrite, cfgRegAt_eq_mode mode, Block.writeShadow, writeReg_mode_congr b.sh (modeAgrees mode)]
  · rcases Nat.lt_or_ge a.toNat 9 with threshold | reserved
    · simp only [configWrite, dataAgrees notMode (by omega)]
    · simp only [configWrite, (cfgRegAt_eq_none_iff a).mpr reserved]

/-- The TRI engine reads SI, OFS and DUR (rules R75, R131). -/
theorem sampleTri_congr (b : Block p) {o o' : Operands p} (si : o.si = o'.si) (ofs : o.ofs = o'.ofs)
    (dur : o.dur = o'.dur) : sampleTri o b = sampleTri o' b := by
  simp only [sampleTri, triRecord, si, ofs, dur]

/-- The PAM3 engine reads SQ too (rules R75, R137). -/
theorem samplePam3_congr (b : Block p) {o o' : Operands p} (si : o.si = o'.si) (ofs : o.ofs = o'.ofs)
    (dur : o.dur = o'.dur) (sq : o.sq = o'.sq) : samplePam3 o b = samplePam3 o' b := by
  simp only [samplePam3, pamRecord, si, ofs, dur, sq]

/-- Outside a pass SAMPLE reads no port; in one it reads those of its engine. -/
theorem takeSample_congr {a : CfgAddr} {b c : Block p} {o o' : Operands p} (taken : takeSample o b = .ok c)
    (agree : readPortsAgree (.sample a) b o o') : takeSample o' b = .ok c := by
  rcases takeSample_cases o b with ⟨idle, e⟩ | ⟨active, tri, e⟩ | ⟨active, pam, e⟩ | ⟨_, _, _, e⟩ <;>
    rw [e] at taken <;> cases taken
  · exact takeSample_of_idle o' idle
  · obtain ⟨si, ofs, dur, _⟩ := agree active
    rw [takeSample_tri o' active tri, sampleTri_congr _ si ofs dur]
  · obtain ⟨si, ofs, dur, sq⟩ := agree active
    rw [takeSample_pam3 o' active pam, samplePam3_congr _ si ofs dur (sq pam)]

/-- What a command does to a block is the same under two sets of port values that agree where it reads them. -/
theorem BlockStep.of_readPortsAgree {o o' : Operands p} {b c : Block p} {i : Instr} (h : BlockStep o b i c)
    (agree : readPortsAgree i b o o') : BlockStep o' b i c := by
  cases h with
  | nop a => exact .nop a
  | cfgWrite a => rw [configWrite_congr agree]; exact .cfgWrite a
  | start a => exact .start a
  | sample a taken => exact .sample a (takeSample_congr taken agree)
  | endPass a => exact .endPass a
  | rsvd5 a => exact .rsvd5 a
  | rsvd67 low => exact .rsvd67 low

/-- Settles O36: `BlockStep.of_readPortsAgree` for the block operation that `exec` is. -/
theorem unreadPortsIgnored : Obligations.UnreadPortsIgnored :=
  fun _ _ b' _ _ _ _ agree h => exec_next_iff.mpr ⟨b', rfl, (blockStep_of_exec h).of_readPortsAgree agree⟩

end Sys2Proof.Machine
end

section
/-! PROOFS. The assembler: the command and the ranges of each form, and the pseudo-command mlt3 run to its end
(obligations O50, O51). -/

namespace Sys2Proof.Machine

variable {p : Params}

/-! The ranges (rule R80). -/

theorem isCode_iff {n : Int} : isCode p n = true ↔ minCode p.sampleW ≤ n ∧ n ≤ maxCode p.sampleW := by
  simp [isCode]

theorem isTick_iff {n : Int} : isTick p n = true ↔ 0 ≤ n ∧ n < 2 ^ p.tsW := by
  simp [isTick]

theorem fits_cfgw_iff (r : CfgReg) (v : Int) :
    (Asm.cfgw (cfgAddrOf r) v).fits p = true ↔
      (r = .mode ∧ 0 ≤ v ∧ v ≤ 3) ∨ (r ≠ .mode ∧ minCode p.sampleW ≤ v ∧ v ≤ maxCode p.sampleW) := by
  simp only [Asm.fits, cfgRegAt_cfgAddrOf]
  cases r <;> simp [isCode]

theorem fits_cfgw_of_reserved {addr : CfgAddr} (reserved : 9 ≤ addr.toNat) (v : Int) :
    (Asm.cfgw addr v).fits p = true := by
  simp only [Asm.fits, (cfgRegAt_eq_none_iff addr).mpr reserved]

theorem fits_sample_iff (si sq ofs dur : Int) :
    (Asm.sample si sq ofs dur).fits p = true ↔
      (minCode p.sampleW ≤ si ∧ si ≤ maxCode p.sampleW) ∧ (minCode p.sampleW ≤ sq ∧ sq ≤ maxCode p.sampleW) ∧
        (0 ≤ ofs ∧ ofs < 2 ^ p.tsW) ∧ (0 ≤ dur ∧ dur < 2 ^ p.tsW) := by
  simp only [Asm.fits, Bool.and_eq_true, isCode_iff, isTick_iff, and_assoc]

theorem fits_sampleTri_iff (si ofs dur : Int) :
    (Asm.sampleTri si ofs dur).fits p = true ↔
      (minCode p.sampleW ≤ si ∧ si ≤ maxCode p.sampleW) ∧ (0 ≤ ofs ∧ ofs < 2 ^ p.tsW) ∧
        (0 ≤ dur ∧ dur < 2 ^ p.tsW) := by
  simp only [Asm.fits, Bool.and_eq_true, isCode_iff, isTick_iff, and_assoc]

theorem fits_cw_iff (n : Int) : (Asm.cw n).fits p = true ↔ 0 ≤ n ∧ n ≤ 127 := by
  simp [Asm.fits]

/-! The commands. -/

/-- The command of a form, whether or not its integers fit. -/
def Asm.command (p : Params) (a : Asm) : Command p := { cw := a.word, operands := a.operands p }

theorem assemble_of_fits {a : Asm} (h : a.fits p = true) : a.assemble p = .ok (a.command p) := if_pos h

/-- A form is refused exactly outside its ranges. -/
theorem assemble_eq_ite {a : Asm} {P : Prop} [Decidable P] (h : a.fits p = true ↔ P) :
    a.assemble p = if P then .ok (a.command p) else .error .outOfRange := by
  simp only [Asm.assemble, h, Asm.command]

theorem command_cfgw (addr : CfgAddr) (v : Int) : (Asm.cfgw addr v).command p =
    ⟨BitVec.ofNat 7 (0x10 + addr.toNat), { zeroOperands p with data := BitVec.ofInt _ v }⟩ := by
  rw [← encode_cfgWrite]
  rfl

/-- Settles O50: `assemble_eq_ite` at the ranges of each form. -/
theorem assemblerForms : Obligations.AssemblerForms := by
  intro p
  refine ⟨rfl, rfl, rfl, fun r v => ?_, fun addr v reserved => ?_, fun si sq ofs dur => ?_, fun si ofs dur => ?_,
    fun n => ?_⟩
  · rw [← command_cfgw]
    exact assemble_eq_ite (fits_cfgw_iff r v)
  · rw [← command_cfgw]
    exact assemble_of_fits (fits_cfgw_of_reserved reserved v)
  · exact assemble_eq_ite (fits_sample_iff si sq ofs dur)
  · exact assemble_eq_ite (fits_sampleTri_iff si ofs dur)
  · exact assemble_eq_ite (fits_cw_iff n)

/-- Forms that all fit assemble to the list of their commands. -/
theorem assembleAll_of_fits {as : List Asm} (h : ∀ a ∈ as, a.fits p = true) :
    assembleAll p as = .ok (as.map (Asm.command p)) := by
  induction as with
  | nil => rfl
  | cons a as ih =>
    obtain ⟨fitsHead, fitsTail⟩ := List.forall_mem_cons.mp h
    simp only [assembleAll, assemble_of_fits fitsHead, ih fitsTail, List.map_cons]

/-! The pseudo-command mlt3 (rules R81, R143). -/

/-- The command of `cfgw` of a register writes its integer to that shadow register (rule R101). -/
theorem runAll_cfgwReg (b : Block p) (o : Operands p) (r : CfgReg) (v : Int) (es : List (HostEvent p)) :
    runAll ⟨p, b, o, .command ((cfgwReg r v).command p) :: es⟩ =
      runAll ⟨p, b.writeShadow r (BitVec.ofInt _ v), ((cfgwReg r v).command p).operands, es⟩ := by
  refine runAll_command (decode_encode (.cfgWrite (cfgAddrOf r))) ?_
  rw [exec_cfgWrite_eq, withBlock_mk]
  simp only [configWrite, cfgRegAt_cfgAddrOf]
  rfl

theorem fits_cfgwReg_of_isCode {r : CfgReg} (threshold : r ≠ .mode) {v : Int} (code : isCode p v = true) :
    (cfgwReg r v).fits p = true :=
  (fits_cfgw_iff r v).mpr (.inr ⟨threshold, isCode_iff.mp code⟩)

/-- The four forms of `band` fit where its integers are codes. -/
theorem bandAsm_fits {eh xh xl el : Int} (heh : isCode p eh = true) (hxh : isCode p xh = true)
    (hxl : isCode p xl = true) (hel : isCode p el = true) : ∀ a ∈ bandAsm eh xh xl el, a.fits p = true := by
  simp only [bandAsm, List.forall_mem_cons]
  exact ⟨fits_cfgwReg_of_isCode (by decide) heh, fits_cfgwReg_of_isCode (by decide) hxh,
    fits_cfgwReg_of_isCode (by decide) hxl, fits_cfgwReg_of_isCode (by decide) hel, by simp⟩

/-- The shadow registers with the four TRI thresholds written. -/
def bandConfig {w : Nat} (regs : ConfigRegs w) (eh xh xl el : Int) : ConfigRegs w :=
  { regs with
    enterHi := BitVec.ofInt w eh
    exitHi := BitVec.ofInt w xh
    exitLo := BitVec.ofInt w xl
    enterLo := BitVec.ofInt w el }

/-- The commands of `band` run from any state and write the four thresholds alone. -/
theorem runAll_bandAsm (b : Block p) (o : Operands p) (eh xh xl el : Int) :
    ∃ o', runAll ⟨p, b, o, ((bandAsm eh xh xl el).map (Asm.command p)).map .command⟩ =
      .next ⟨p, b.withShadow (bandConfig b.sh eh xh xl el), o', []⟩ := by
  refine ⟨((cfgwReg .enterLo el).command p).operands, ?_⟩
  simp only [bandAsm, List.map_cons, List.map_nil, runAll_cfgwReg, runAll_nil]
  rfl

theorem minCode_nonpos (w : Nat) : minCode w ≤ 0 := by simp [minCode]

/-- Negating a code that is not negative gives a code: the smallest code is below minus the largest. -/
theorem isCode_neg {t : Int} (nonneg : 0 ≤ t) (code : isCode p t = true) : isCode p (-t) = true := by
  obtain ⟨_, upper⟩ := isCode_iff.mp code
  simp only [isCode_iff, minCode, maxCode] at upper ⊢
  omega

/-- Thresholds of ordered codes pass the check in TRI mode (rule R105). -/
theorem cfgValid_bandConfig (hw : 0 < p.sampleW) {regs : ConfigRegs p.sampleW} {eh xh xl el : Int}
    (mode : regs.mode = modeTri) (heh : isCode p eh = true) (hxh : isCode p xh = true) (hxl : isCode p xl = true)
    (hel : isCode p el = true) (lo : el ≤ xl) (mid : xl ≤ xh) (hi : xh ≤ eh) :
    cfgValid (bandConfig regs eh xh xl el) = true := by
  have reads {n : Int} (code : isCode p n = true) : sint (BitVec.ofInt p.sampleW n) = n := by
    rw [sint_eq_toInt, toInt_ofInt_of_isCode hw (isCode_iff.mp code).1 (isCode_iff.mp code).2]
  apply cfgValid_of_tri (R := bandConfig regs eh xh xl el) mode
  · simpa only [bandConfig, reads hel, reads hxl] using lo
  · simpa only [bandConfig, reads hxl, reads hxh] using mid
  · simpa only [bandConfig, reads hxh, reads heh] using hi

/-- Settles O51: `mlt3 t` is the band `t, t, -t, -t`, whose integers are ordered codes. -/
theorem mlt3PseudoSetsItsProfile : Obligations.Mlt3PseudoSetsItsProfile := by
  intro p b o t ⟨hw, _⟩ nonneg upper
  have code : isCode p t = true := isCode_iff.mpr ⟨(minCode_nonpos _).trans nonneg, upper⟩
  have codeNeg := isCode_neg nonneg code
  obtain ⟨o', hrun⟩ := runAll_bandAsm b o t t (-t) (-t)
  refine ⟨(bandAsm t t (-t) (-t)).map (Asm.command p), o', ?_, hrun, fun mode => ?_⟩
  · exact assembleAll_of_fits (bandAsm_fits code code codeNeg codeNeg)
  · exact cfgValid_bandConfig (by omega) mode code code codeNeg codeNeg le_rfl (by omega) le_rfl

end Sys2Proof.Machine
end

section
/-! PROOFS. The control commands: STATUS after each as a word, the configuration check, the whole next state of NOP,
CFG_WRITE, START, END and the reserved operations, and the precision of errors (obligations O10, O11, O12, O14, O15,
O16, O17, O18, O19, O44, O49). -/

namespace Sys2Proof.Machine

variable {p : Params}

/-! STATUS as a word: what setting and clearing bits makes of it (rule R34). -/

/-- Under a mask that is set afterwards, what was kept before it does not matter. -/
theorem and_or_congr {w : Nat} (x : BitVec w) {a d m : BitVec w} (h : a ||| m = d ||| m) :
    x &&& a ||| m = x &&& d ||| m := by
  ext i hi
  have bit : (a[i] || m[i]) = (d[i] || m[i]) := by
    simpa [hi] using congrArg (fun v : BitVec w => v.getLsbD i) h
  cases hx : x[i] <;> simp [hx, bit]

theorem flag_illCmd_eq (b : Block p) : b.flag .illCmd = { b with status := b.status ||| 0x10 } := rfl

theorem flag_seqErr_eq (b : Block p) : b.flag .seqErr = { b with status := b.status ||| 0x08 } := rfl

/-- START clears CFG_ERR and EMPTY at once (rule R104). -/
theorem clearDiagnostics_eq (b : Block p) :
    (b.putStatus .cfgErr false).putStatus .empty false = { b with status := b.status &&& 0xF9 } :=
  congrArg (fun w => { b with status := w }) (BitVec.and_assoc b.status _ _)

/-- SEQ_ERR over a rejected START's CFG_ERR (rule R196). -/
theorem flag_seqErr_cfgErr_eq (b : Block p) (w : StatusWord) :
    ({ b with status := w ||| 0x02 } : Block p).flag .seqErr = { b with status := w ||| 0x0A } :=
  congrArg (fun w => { b with status := w }) (BitVec.or_assoc w _ _)

/-! The configuration check (rule R105). -/

/-- Settles O19, by the mode, with `sint` read as the library's two's complement. -/
theorem configurationCheck : Obligations.ConfigurationCheck := by
  intro w R
  simp only [cfgValid, sint_eq_toInt, modeTri, modePam3]
  split_ifs with tri pam
  · simp [tri, and_assoc]
  · simp [pam]
  · simp only [tri, pam, false_and, or_self]

/-! CFG_WRITE, by address (rules R101, R102). -/

theorem configWrite_cfgAddrOf (r : CfgReg) (o : Operands p) (b : Block p) :
    configWrite (cfgAddrOf r) o b = b.writeShadow r o.data := by
  simp only [configWrite, cfgRegAt_cfgAddrOf]

theorem exec_cfgWrite_cfgAddrOf (r : CfgReg) (b : Block p) (o : Operands p) (es : List (HostEvent p)) :
    exec (.cfgWrite (cfgAddrOf r)) ⟨p, b, o, es⟩ = .next ⟨p, b.writeShadow r o.data, o, es⟩ := by
  rw [exec_cfgWrite_eq, configWrite_cfgAddrOf, withBlock_mk]

theorem configWrite_of_reserved {a : CfgAddr} (reserved : 9 ≤ a.toNat) (o : Operands p) (b : Block p) :
    configWrite a o b = b.flag .illCmd := by
  simp only [configWrite, (cfgRegAt_eq_none_iff a).mpr reserved]

/-! The two outcomes of START while idle, and END while idle (rules R104, R108). -/

/-- Accepted, in the words of the shared operations. -/
theorem startPass_eq_openPass {b : Block p} (idle : b.has .active = false) (legal : cfgValid b.sh = true) :
    startPass b = openPass ((b.putStatus .cfgErr false).putStatus .empty false) := by
  simp [startPass, idle, legal]

theorem startPass_of_legal {b : Block p} (idle : b.has .active = false) (legal : cfgValid b.sh = true) :
    startPass b =
      { b with ac := b.sh, h := .zero, seen := false, status := (b.status &&& 0xF9) ||| 0x01 } := by
  rw [startPass_eq_openPass idle legal, clearDiagnostics_eq]
  rfl

/-- Rejected, in the words of the shared operations. -/
theorem startPass_eq_flag_cfgErr {b : Block p} (idle : b.has .active = false) (illegal : cfgValid b.sh = false) :
    startPass b = ((b.putStatus .cfgErr false).putStatus .empty false).flag .cfgErr := by
  simp [startPass, idle, illegal]

theorem startPass_of_illegal {b : Block p} (idle : b.has .active = false) (illegal : cfgValid b.sh = false) :
    startPass b = { b with status := (b.status &&& 0xF9) ||| 0x02 } := by
  rw [startPass_eq_flag_cfgErr idle illegal, clearDiagnostics_eq]
  rfl

theorem closePass_of_idle {b : Block p} (idle : b.has .active = false) : closePass b = b.flag .seqErr := by
  simp [closePass, idle]

/-- END in a pass as one STATUS word (rule R107). -/
theorem closePass_eq_of_active {b : Block p} (active : b.has .active = true) :
    closePass b = { b with status := (b.status &&& 0xFA) ||| (if b.seen then 0x00 else 0x04) } := by
  rw [closePass_of_active active]
  refine congrArg (fun w => { b with status := w }) ?_
  cases hs : b.seen
  case false => exact and_or_congr b.status (by decide)
  case true => exact (BitVec.and_assoc b.status _ _).trans (BitVec.or_zero).symm

/-! The whole next state of each control command. -/

/-- Settles O10: the row of NOP, and its arm of `exec`. -/
theorem nopLeavesEverything : Obligations.NopLeavesEverything :=
  ⟨fun a => decode_encode (.nop a), exec_nop_eq⟩

/-- Settles O11: `exec_cfgWrite_cfgAddrOf` at each register. -/
theorem configWriteStoresRegister : Obligations.ConfigWriteStoresRegister := by
  refine ⟨fun a => decode_encode (.cfgWrite a), fun p b o es => ?_⟩
  have stores (r : CfgReg) := exec_cfgWrite_cfgAddrOf r b o es
  exact ⟨stores .mode, stores .enterHi, stores .exitHi, stores .exitLo, stores .enterLo, stores .iUpper,
    stores .iLower, stores .qUpper, stores .qLower⟩

/-- Settles O12: `configWrite_of_reserved`. -/
theorem configWriteReservedAddress : Obligations.ConfigWriteReservedAddress := by
  refine ⟨fun a => decode_encode (.cfgWrite a), fun p b o es a reserved => ?_⟩
  rw [exec_cfgWrite_eq, configWrite_of_reserved reserved, flag_illCmd_eq, withBlock_mk]

/-- Settles O14, by whether the shadow configuration passes the check. -/
theorem startWhileIdle : Obligations.StartWhileIdle := by
  refine ⟨fun a => decode_encode (.start a), fun p b o es a idle => ?_⟩
  rw [exec_start_eq]
  cases legal : cfgValid b.sh
  case true => rw [startPass_of_legal idle legal]; rfl
  case false => rw [startPass_of_illegal idle legal]; rfl

/-- Settles O15: `startPass_of_active`. -/
theorem startInAPass : Obligations.StartInAPass := by
  refine ⟨fun a => decode_encode (.start a), fun p b o es a active => ?_⟩
  rw [exec_start_eq, startPass_of_active active, flag_seqErr_eq, withBlock_mk]

/-- Settles O16: `closePass_eq_of_active`. -/
theorem endInAPass : Obligations.EndInAPass := by
  refine ⟨fun a => decode_encode (.endPass a), fun p b o es a active => ?_⟩
  rw [exec_endPass_eq, closePass_eq_of_active active, withBlock_mk]

/-- Settles O17: `closePass_of_idle`. -/
theorem endWhileIdle : Obligations.EndWhileIdle := by
  refine ⟨fun a => decode_encode (.endPass a), fun p b o es a idle => ?_⟩
  rw [exec_endPass_eq, closePass_of_idle idle, flag_seqErr_eq, withBlock_mk]

/-- Settles O18: both rows are `flag` of ILL_CMD. -/
theorem reservedOperations : Obligations.ReservedOperations :=
  ⟨fun a => decode_encode (.rsvd5 a), fun l => decode_encode (.rsvd67 l),
    fun _ _ _ _ a l => ⟨exec_rsvd5_eq a _, exec_rsvd67_eq l _⟩⟩

/-! Errors (rules R160 to R164): what a command does that meets one, and what one does that meets none. -/

section
variable {o : Operands p} {b c : Block p} {i : Instr}

/-- A command that meets ILL_CMD or SEQ_ERR takes that error and does nothing else. -/
theorem blockStep_of_error {f : StatusBit} (err : errorOf i b = some f) (notCfgErr : f ≠ .cfgErr) :
    BlockStep o b i (b.flag f) := by
  cases i with
  | nop a => cases err
  | cfgWrite a =>
    simp only [errorOf] at err
    split_ifs at err with implemented
    cases err
    rw [← configWrite_of_reserved (not_le.mp implemented) o b]
    exact .cfgWrite a
  | start a =>
    simp only [errorOf] at err
    split_ifs at err with active legal
    · cases err
      rw [← startPass_of_active active]
      exact .start a
    · cases err
      exact absurd rfl notCfgErr
  | sample a =>
    simp only [errorOf] at err
    split_ifs at err with active
    cases err
    exact .sample a (takeSample_of_idle o (Bool.eq_false_of_not_eq_true active))
  | endPass a =>
    simp only [errorOf] at err
    split_ifs at err with active
    cases err
    rw [← closePass_of_idle (Bool.eq_false_of_not_eq_true active)]
    exact .endPass a
  | rsvd5 a => cases err; exact .rsvd5 a
  | rsvd67 low => cases err; exact .rsvd67 low

theorem exec_of_error (es : List (HostEvent p)) {f : StatusBit} (err : errorOf i b = some f)
    (notCfgErr : f ≠ .cfgErr) : exec i ⟨p, b, o, es⟩ = .next ⟨p, b.flag f, o, es⟩ :=
  exec_next_iff.mpr ⟨_, rfl, blockStep_of_error err notCfgErr⟩

/-- CFG_ERR is the error of a START while idle whose configuration fails the check (rules R104, R163). -/
theorem start_of_cfgErr (err : errorOf i b = some .cfgErr) :
    (∃ a, i = .start a) ∧ b.has .active = false ∧ cfgValid b.sh = false := by
  cases i with
  | start a =>
    simp only [errorOf] at err
    split_ifs at err with active legal
    · cases err
    · exact ⟨⟨a, rfl⟩, Bool.eq_false_of_not_eq_true active, Bool.eq_false_of_not_eq_true legal⟩
  | nop a => cases err
  | rsvd5 a => cases err
  | rsvd67 low => cases err
  | _ =>
    simp only [errorOf] at err
    split_ifs at err
    cases err

theorem errorOf_start_eq_none_iff (a : CfgAddr) :
    errorOf (.start a) b = none ↔ b.has .active = false ∧ cfgValid b.sh = true := by
  simp only [errorOf]
  split_ifs with active legal
  · simp [active]
  · simp [active, legal]
  · simp [legal]

/-- An accepted START has cleared CFG_ERR and raises no error (rule R104). -/
theorem statusEffect_startPass_of_legal (idle : b.has .active = false) (legal : cfgValid b.sh = true) :
    StatusEffect b (startPass b) [.active, .cfgErr, .empty] [] ∧ (startPass b).has .cfgErr = false := by
  rw [startPass_eq_openPass idle legal]
  refine ⟨?_, by simp⟩
  constructor
  case kept => intro f; cases f <;> simp
  case sticky => simp
  case reserved => simp

/-- A command that meets no error raises none: of STATUS it changes only the bits it writes (rule R34). -/
theorem BlockStep.statusEffect_of_noError (h : BlockStep o b i c) (noErr : errorOf i b = none) :
    StatusEffect b c (bitsWritten i) [] := by
  cases h with
  | nop a => exact .of_status_eq rfl
  | cfgWrite a =>
    rcases configWrite_cases a o b with ⟨_, _, e⟩ | ⟨reserved, _⟩
    · rw [e]; exact .of_status_eq rfl
    · have : 9 ≤ a.toNat := (cfgRegAt_eq_none_iff a).mp reserved
      simp only [errorOf] at noErr
      split_ifs at noErr
      omega
  | start a =>
    obtain ⟨idle, legal⟩ := (errorOf_start_eq_none_iff a).mp noErr
    exact (statusEffect_startPass_of_legal idle legal).1
  | sample a taken =>
    rcases takeSample_cases o b with ⟨idle, _⟩ | ⟨_, _, e⟩ | ⟨_, _, e⟩ | ⟨_, _, _, e⟩
    · simp [errorOf, idle] at noErr
    · rw [e] at taken; cases taken; exact .of_status_eq rfl
    · rw [e] at taken; cases taken; exact .of_status_eq rfl
    · rw [e] at taken; cases taken
  | endPass a =>
    rcases closePass_cases b with ⟨_, e⟩ | ⟨idle, _⟩
    · rw [e]
      constructor
      case kept => intro f; cases f <;> simp [bitsWritten]
      case sticky => simp
      case reserved => simp
    · simp [errorOf, idle] at noErr
  | rsvd5 a => cases noErr
  | rsvd67 low => cases noErr

/-- Of the commands that meet no error only START writes CFG_ERR, and it clears it. -/
theorem BlockStep.cfgErr_of_noError (h : BlockStep o b i c) (noErr : errorOf i b = none)
    (set : c.has .cfgErr = true) : b.has .cfgErr = true := by
  by_cases written : StatusBit.cfgErr ∈ bitsWritten i
  · obtain ⟨a, rfl⟩ := writers_of_cfgErr (List.mem_append_left _ written)
    obtain ⟨idle, legal⟩ := (errorOf_start_eq_none_iff a).mp noErr
    cases h
    simp [(statusEffect_startPass_of_legal idle legal).2] at set
  · rwa [(h.statusEffect_of_noError noErr).kept _ written List.not_mem_nil] at set

end

/-- Settles O44: `exec_of_error` for ILL_CMD and SEQ_ERR, a rejected START for CFG_ERR, and what STATUS keeps when
there is no error. -/
theorem errorsArePrecise : Obligations.ErrorsArePrecise := by
  intro p b o es i
  refine ⟨fun err => exec_of_error es err (by decide), fun err => exec_of_error es err (by decide), ?_, ?_⟩
  · intro err
    obtain ⟨⟨a, rfl⟩, idle, illegal⟩ := start_of_cfgErr err
    have sameWord : b.status &&& 0xF9 ||| 0x02 = b.status &&& 0xFB ||| 0x02 := and_or_congr b.status (by decide)
    rw [exec_start_eq, startPass_of_illegal idle illegal, sameWord, withBlock_mk]
  · intro noErr b' h
    have hstep := blockStep_of_exec h
    have effect := hstep.statusEffect_of_noError noErr
    exact ⟨hstep.cfgErr_of_noError noErr, effect.kept .seqErr (seqErr_notWritten i) List.not_mem_nil,
      effect.kept .illCmd (illCmd_notWritten i) List.not_mem_nil⟩

/-! SAMPLE commands while idle (rules R130, R196). -/

theorem exec_sample_of_idle (a : CfgAddr) {b : Block p} (o : Operands p) (es : List (HostEvent p))
    (idle : b.has .active = false) : exec (.sample a) ⟨p, b, o, es⟩ = .next ⟨p, b.flag .seqErr, o, es⟩ :=
  exec_sample_eq_of_ok a (takeSample_of_idle o idle)

/-- The first sets SEQ_ERR, and the others set it again. -/
theorem runAll_samples_of_idle {b : Block p} (idle : b.has .active = false) (o : Operands p)
    (x : CfgAddr × Operands p) (xs : List (CfgAddr × Operands p)) :
    ∃ o', runAll ⟨p, b, o, (x :: xs).map (fun x => sampleEvent x.1 x.2)⟩ = .next ⟨p, b.flag .seqErr, o', []⟩ := by
  induction xs generalizing b o x with
  | nil => exact ⟨x.2, runAll_sampleEvent (exec_sample_of_idle x.1 x.2 [] idle)⟩
  | cons y ys ih =>
    obtain ⟨o', hrun⟩ := ih (b := b.flag .seqErr) (by simp [idle]) x.2 y
    rw [flag_flag_same] at hrun
    exact ⟨o', (runAll_sampleEvent (exec_sample_of_idle x.1 x.2 _ idle)).trans hrun⟩

/-- Settles O49: the rejected START leaves the block idle, and each SAMPLE then sets SEQ_ERR alone. -/
theorem rejectedStartEmitsNothing : Obligations.RejectedStartEmitsNothing := by
  intro p b o o₁ a samples idle illegal nonempty
  obtain ⟨x, xs, rfl⟩ := List.exists_cons_of_ne_nil nonempty
  have idleAfter : (startPass b).has .active = false := by
    rw [startPass_eq_flag_cfgErr idle illegal]
    simpa using (show b.has .active = false from idle)
  obtain ⟨o', hrun⟩ := runAll_samples_of_idle idleAfter o₁ x xs
  refine ⟨o', ?_⟩
  calc runAll ⟨p, b, o, startEvent a o₁ :: (x :: xs).map (fun x => sampleEvent x.1 x.2)⟩
    _ = runAll ⟨p, startPass b, o₁, (x :: xs).map (fun x => sampleEvent x.1 x.2)⟩ :=
      runAll_startEvent (exec_start_eq a _)
    _ = .next ⟨p, (startPass b).flag .seqErr, o', []⟩ := hrun
    _ = .next ⟨p, { b with status := (b.status &&& 0xF9) ||| 0x0A }, o', []⟩ := by
      rw [startPass_of_illegal idle illegal, flag_seqErr_cfgErr_eq]

end Sys2Proof.Machine
end

section
/-! PROOFS. SAMPLE as a command: the whole next state while idle and in a TRI or PAM3 pass, and the stop under a
reserved active mode (obligations O23, O24, O25, O26). -/

namespace Sys2Proof.Machine

variable {p : Params}

/-! What SAMPLE answers, by ACTIVE and the active mode (rule R130). -/

theorem exec_sample_of_tri (a : CfgAddr) {b : Block p} (o : Operands p) (es : List (HostEvent p))
    (active : b.has .active = true) (tri : b.ac.mode = modeTri) :
    exec (.sample a) ⟨p, b, o, es⟩ = .next ⟨p, sampleTri o (b.putSeen true), o, es⟩ :=
  exec_sample_eq_of_ok a (takeSample_tri o active tri)

theorem exec_sample_of_pam3 (a : CfgAddr) {b : Block p} (o : Operands p) (es : List (HostEvent p))
    (active : b.has .active = true) (pam : b.ac.mode = modePam3) :
    exec (.sample a) ⟨p, b, o, es⟩ = .next ⟨p, samplePam3 o (b.putSeen true), o, es⟩ :=
  exec_sample_eq_of_ok a (takeSample_pam3 o active pam)

theorem takeSample_of_reserved {b : Block p} (o : Operands p) (active : b.has .active = true)
    (notTri : b.ac.mode ≠ modeTri) (notPam : b.ac.mode ≠ modePam3) :
    takeSample o b = .error .activeModeReserved := by
  simp [takeSample, active, notTri, notPam]

theorem exec_sample_eq_of_error (a : CfgAddr) {s : State} {f : Fault} (h : takeSample s.ports s.block = .error f) :
    exec (.sample a) s = .fault f := by
  simp only [exec, execSample, h]

/-- Modes 2 and 3 select no engine (rule R22). -/
theorem reserved_mode_ne {m : BitVec 2} (reserved : m = 2 ∨ m = 3) : m ≠ modeTri ∧ m ≠ modePam3 := by
  rcases reserved with rfl | rfl <;> decide

/-! The blocks the two engines leave, thresholds and codes read as the library reads them. -/

theorem sampleTri_putSeen_eq (o : Operands p) (b : Block p) :
    sampleTri o (b.putSeen true) = { b with
      seen := true
      h := triNext b.ac b.h o.si.toInt
      out := b.out ++
        [{ s0 := (triNext b.ac b.h o.si.toInt).enc, s1 := 0b00, ofs := o.ofs, dur := o.dur }] } := by
  rw [← sint_eq_toInt]
  rfl

theorem samplePam3_putSeen_eq (o : Operands p) (b : Block p) :
    samplePam3 o (b.putSeen true) = { b with
      seen := true
      out := b.out ++ [{
        s0 := (pamDec o.si.toInt b.ac.iUpper.toInt b.ac.iLower.toInt).enc
        s1 := (pamDec o.sq.toInt b.ac.qUpper.toInt b.ac.qLower.toInt).enc
        ofs := o.ofs
        dur := o.dur }] } := by
  simp only [← sint_eq_toInt]
  rfl

/-- Settles O23: `exec_sample_of_idle`. -/
theorem sampleWhileIdle : Obligations.SampleWhileIdle := by
  refine ⟨fun a => decode_encode (.sample a), fun p b o es a idle => ?_⟩
  rw [exec_sample_of_idle a o es idle, flag_seqErr_eq]

/-- Settles O24: `exec_sample_of_tri`. -/
theorem sampleInTriPass : Obligations.SampleInTriPass := by
  intro p b o es a active tri
  rw [exec_sample_of_tri a o es active tri, sampleTri_putSeen_eq]

/-- Settles O25: `exec_sample_of_pam3`. -/
theorem sampleInPam3Pass : Obligations.SampleInPam3Pass := by
  intro p b o es a active pam
  rw [exec_sample_of_pam3 a o es active pam, samplePam3_putSeen_eq]

/-- Settles O26: neither engine is selected. -/
theorem sampleStopsOnReservedActiveMode : Obligations.SampleStopsOnReservedActiveMode := by
  intro p b o es a active reserved
  obtain ⟨notTri, notPam⟩ := reserved_mode_ne reserved
  exact exec_sample_eq_of_error a (takeSample_of_reserved o active notTri notPam)

end Sys2Proof.Machine
end

section
/-! PROOFS. The TRI decision: when each symbol is kept or left, the transition table under a legal configuration, its
corners, full swings, and that no fixed number of samples decides it (obligations O27, O28, O29, O30, O32). -/

namespace Sys2Proof.Machine

variable {p : Params} {w : Nat} {ac : ConfigRegs w} {h : Symbol} {v : Int}

/-! The decision from each symbol (rule R132), with no order of the thresholds assumed. -/

theorem triNext_zero_eq (ac : ConfigRegs w) (v : Int) : triNext ac .zero v =
    if v > ac.enterHi.toInt then .pos else if v < ac.enterLo.toInt then .neg else .zero := by
  simp only [triNext, sint_eq_toInt]

theorem triNext_pos_eq (ac : ConfigRegs w) (v : Int) : triNext ac .pos v =
    if v ≥ ac.exitHi.toInt then .pos else if v < ac.enterLo.toInt then .neg else .zero := by
  simp only [triNext, sint_eq_toInt]

theorem triNext_neg_eq (ac : ConfigRegs w) (v : Int) : triNext ac .neg v =
    if v ≤ ac.exitLo.toInt then .neg else if v > ac.enterHi.toInt then .pos else .zero := by
  simp only [triNext, sint_eq_toInt]

theorem triNext_zero_eq_zero_iff :
    triNext ac .zero v = .zero ↔ ac.enterLo.toInt ≤ v ∧ v ≤ ac.enterHi.toInt := by
  rw [triNext_zero_eq]
  split_ifs <;> simp <;> omega

theorem triNext_pos_eq_pos_iff : triNext ac .pos v = .pos ↔ ac.exitHi.toInt ≤ v := by
  rw [triNext_pos_eq]
  split_ifs <;> simp <;> omega

theorem triNext_neg_eq_neg_iff : triNext ac .neg v = .neg ↔ v ≤ ac.exitLo.toInt := by
  rw [triNext_neg_eq]
  split_ifs <;> simp <;> omega

theorem triNext_pos_eq_zero_iff :
    triNext ac .pos v = .zero ↔ ac.enterLo.toInt ≤ v ∧ v < ac.exitHi.toInt := by
  rw [triNext_pos_eq]
  split_ifs <;> simp <;> omega

theorem triNext_neg_eq_zero_iff :
    triNext ac .neg v = .zero ↔ ac.exitLo.toInt < v ∧ v ≤ ac.enterHi.toInt := by
  rw [triNext_neg_eq]
  split_ifs <;> simp <;> omega

/-- Only a code above ENTER_HI brings +1 from another symbol. -/
theorem triNext_ne_pos (notPos : h ≠ .pos) (below : v ≤ ac.enterHi.toInt) : triNext ac h v ≠ .pos := by
  cases h with
  | pos => exact absurd rfl notPos
  | zero => rw [triNext_zero_eq, if_neg below.not_gt]; split_ifs <;> simp
  | neg => rw [triNext_neg_eq, if_neg below.not_gt]; split_ifs <;> simp

/-- Only a code below ENTER_LO brings -1 from another symbol. -/
theorem triNext_ne_neg (notNeg : h ≠ .neg) (above : ac.enterLo.toInt ≤ v) : triNext ac h v ≠ .neg := by
  cases h with
  | neg => exact absurd rfl notNeg
  | zero => rw [triNext_zero_eq, if_neg above.not_gt]; split_ifs <;> simp
  | pos => rw [triNext_pos_eq, if_neg above.not_gt]; split_ifs <;> simp

/-- A symbol is kept exactly in its tolerance band (rule R133). -/
theorem triNext_eq_self_iff (ac : ConfigRegs w) (h : Symbol) (v : BitVec w) :
    triNext ac h v.toInt = h ↔ inBand ac h v := by
  cases h with
  | zero => exact triNext_zero_eq_zero_iff
  | pos => exact triNext_pos_eq_pos_iff
  | neg => exact triNext_neg_eq_neg_iff

/-- Settles O28: `triNext_eq_self_iff` for the H that the TRI engine writes. -/
theorem hysteresisChangesOutsideBand : Obligations.HysteresisChangesOutsideBand := by
  intro p b o es a active tri
  refine ⟨_, exec_sample_of_tri a o es active tri, ?_⟩
  rw [sampleTri_putSeen_eq]
  exact triNext_eq_self_iff b.ac b.h o.si

/-! The transition table (rule R133). -/

/-- The order of the thresholds of a legal TRI configuration (rule R105). -/
structure TriOrdered (ac : ConfigRegs w) : Prop where
  lo : ac.enterLo.toInt ≤ ac.exitLo.toInt
  mid : ac.exitLo.toInt ≤ ac.exitHi.toInt
  hi : ac.exitHi.toInt ≤ ac.enterHi.toInt

theorem triOrdered_of_cfgValid (legal : cfgValid ac = true) (tri : ac.mode = 0) : TriOrdered ac := by
  rcases (configurationCheck w ac).mp legal with ⟨_, lo, mid, hi⟩ | ⟨pam, _⟩
  · exact ⟨lo, mid, hi⟩
  · exact absurd (tri.symm.trans pam) (by decide)

/-- Above ENTER_HI every symbol goes to +1. -/
theorem TriOrdered.triNext_of_gt (ordered : TriOrdered ac) (above : v > ac.enterHi.toInt) (h : Symbol) :
    triNext ac h v = .pos := by
  obtain ⟨_, mid, hi⟩ := ordered
  cases h with
  | zero => rw [triNext_zero_eq, if_pos above]
  | pos => exact triNext_pos_eq_pos_iff.mpr (by omega)
  | neg => rw [triNext_neg_eq, if_neg (by omega), if_pos above]

/-- Below ENTER_LO every symbol goes to -1. -/
theorem TriOrdered.triNext_of_lt (ordered : TriOrdered ac) (below : v < ac.enterLo.toInt) (h : Symbol) :
    triNext ac h v = .neg := by
  obtain ⟨lo, mid, hi⟩ := ordered
  cases h with
  | zero => rw [triNext_zero_eq, if_neg (by omega), if_pos below]
  | pos => rw [triNext_pos_eq, if_neg (by omega), if_pos below]
  | neg => exact triNext_neg_eq_neg_iff.mpr (by omega)

/-- Strictly between the exits every symbol goes to 0. -/
theorem TriOrdered.triNext_of_between (ordered : TriOrdered ac) (above : ac.exitLo.toInt < v)
    (below : v < ac.exitHi.toInt) (h : Symbol) : triNext ac h v = .zero := by
  obtain ⟨lo, _, hi⟩ := ordered
  cases h with
  | zero => exact triNext_zero_eq_zero_iff.mpr (by omega)
  | pos => exact triNext_pos_eq_zero_iff.mpr (by omega)
  | neg => exact triNext_neg_eq_zero_iff.mpr (by omega)

/-- The one code at which both exits meet keeps every symbol. -/
theorem TriOrdered.triNext_of_shared (ordered : TriOrdered ac) (meet : ac.exitLo.toInt = ac.exitHi.toInt)
    (shared : v = ac.exitHi.toInt) (h : Symbol) : triNext ac h v = h := by
  obtain ⟨lo, _, hi⟩ := ordered
  cases h with
  | zero => exact triNext_zero_eq_zero_iff.mpr (by omega)
  | pos => exact triNext_pos_eq_pos_iff.mpr (by omega)
  | neg => exact triNext_neg_eq_neg_iff.mpr (by omega)

/-- Settles O27: a lemma for each range in which all symbols agree, and the bands of the symbols in the other two. -/
theorem triTransitionTable : Obligations.TriTransitionTable := by
  intro w ac v legal tri
  have ordered := triOrdered_of_cfgValid legal tri
  have ⟨lo, mid, hi⟩ := ordered
  refine ⟨fun notShared => ⟨ordered.triNext_of_gt, ?_, ordered.triNext_of_between, ?_, ordered.triNext_of_lt⟩,
    ordered.triNext_of_shared⟩
  · intro above below
    exact ⟨triNext_zero_eq_zero_iff.mpr (by omega), triNext_pos_eq_pos_iff.mpr above,
      triNext_neg_eq_zero_iff.mpr (by omega)⟩
  · intro above below
    exact ⟨triNext_zero_eq_zero_iff.mpr (by omega), triNext_pos_eq_zero_iff.mpr (by omega),
      triNext_neg_eq_neg_iff.mpr below⟩

/-- Settles O29: the outer ranges of the table, in H and in the record of it. -/
theorem directFullSwing : Obligations.DirectFullSwing := by
  intro p b o es a active tri legal
  have ordered := triOrdered_of_cfgValid legal tri
  refine ⟨_, _, exec_sample_of_tri a o es active tri, sampleTri_out o _, fun _ below => ?_, fun _ above => ?_⟩
  · have swing : triNext b.ac b.h (sint o.si) = .neg := sint_eq_toInt o.si ▸ ordered.triNext_of_lt below b.h
    exact ⟨swing, congrArg Symbol.enc swing⟩
  · have swing : triNext b.ac b.h (sint o.si) = .pos := sint_eq_toInt o.si ▸ ordered.triNext_of_gt above b.h
    exact ⟨swing, congrArg Symbol.enc swing⟩

/-! Sequences of samples. -/

/-- What every sample keeps of the symbol holds of all symbols decided. -/
theorem triSymbols_forall {P : Symbol → Prop} (keep : ∀ h, P h → ∀ v : BitVec w, P (triNext ac h v.toInt))
    {h : Symbol} (start : P h) (vs : List (BitVec w)) : ∀ s ∈ triSymbols ac h vs, P s := by
  induction vs generalizing h with
  | nil => simp [triSymbols]
  | cons v vs ih =>
    have next : P (triNext ac h (sint v)) := sint_eq_toInt v ▸ keep h start v
    exact List.forall_mem_cons.mpr ⟨next, ih next⟩

theorem minCode_le_toInt (v : BitVec w) : minCode w ≤ v.toInt := by
  simpa [minCode] using BitVec.le_toInt v

theorem toInt_le_maxCode (v : BitVec w) : v.toInt ≤ maxCode w := by
  have := BitVec.toInt_lt (x := v)
  simp only [maxCode, Nat.cast_pow, Nat.cast_ofNat]
  omega

/-- With all thresholds equal, 0 is kept at that one code and is never entered. -/
theorem TriOrdered.triNext_ne_zero_of_equal (ordered : TriOrdered ac) (equal : ac.enterHi.toInt = ac.enterLo.toInt)
    (leaves : h ≠ .zero ∨ v ≠ ac.enterHi.toInt) : triNext ac h v ≠ .zero := by
  obtain ⟨lo, mid, hi⟩ := ordered
  cases h with
  | zero =>
    have off : v ≠ ac.enterHi.toInt := leaves.resolve_left (not_not_intro rfl)
    rw [Ne, triNext_zero_eq_zero_iff]
    omega
  | pos => rw [Ne, triNext_pos_eq_zero_iff]; omega
  | neg => rw [Ne, triNext_neg_eq_zero_iff]; omega

/-- Settles O30: the bands at their ends, and `triSymbols_forall` for what a pass never produces. -/
theorem triThresholdCorners : Obligations.TriThresholdCorners := by
  intro w ac legal tri
  have ordered := triOrdered_of_cfgValid legal tri
  have ⟨lo, mid, hi⟩ := ordered
  refine ⟨⟨?_, ?_, ?_, ?_⟩, fun largest vs => ?_, fun smallest vs => ?_, fun smallest vs => ?_,
    fun equal h v vs off => ?_⟩
  · exact triNext_zero_eq_zero_iff.mpr (by omega)
  · exact triNext_pos_eq_pos_iff.mpr le_rfl
  · exact triNext_neg_eq_neg_iff.mpr le_rfl
  · exact triNext_zero_eq_zero_iff.mpr (by omega)
  · have never : ∀ s ∈ triSymbols ac .zero vs, s ≠ .pos :=
      triSymbols_forall (fun _ notPos v => triNext_ne_pos notPos (largest ▸ toInt_le_maxCode v)) (by decide) vs
    exact fun mem => never _ mem rfl
  · have never : ∀ s ∈ triSymbols ac .zero vs, s ≠ .neg :=
      triSymbols_forall (fun _ notNeg v => triNext_ne_neg notNeg (smallest ▸ minCode_le_toInt v)) (by decide) vs
    exact fun mem => never _ mem rfl
  · refine triSymbols_forall (P := (· = .pos)) (fun h isPos v => ?_) rfl vs
    rw [isPos]
    exact triNext_pos_eq_pos_iff.mpr (smallest ▸ minCode_le_toInt v)
  · have first : triNext ac h (sint v) ≠ .zero := by
      rw [sint_eq_toInt]
      exact ordered.triNext_ne_zero_of_equal equal (.inr fun same => off (BitVec.eq_of_toInt_eq same))
    have later : ∀ s ∈ triSymbols ac (triNext ac h (sint v)) vs, s ≠ .zero :=
      triSymbols_forall (P := (· ≠ .zero)) (fun _ notZero _ => ordered.triNext_ne_zero_of_equal equal (.inl notZero))
        first vs
    have never : ∀ s ∈ triSymbols ac h (v :: vs), s ≠ .zero := List.forall_mem_cons.mpr ⟨first, later⟩
    exact fun mem => never _ mem rfl

/-! No finite look-behind (rule R136). -/

/-- A sample in the band of the current symbol keeps it, however often it is repeated. -/
theorem triFinal_replicate_of_inBand {v : BitVec w} (band : inBand ac h v) (n : Nat) :
    triFinal ac h (List.replicate n v) = h := by
  induction n with
  | zero => rfl
  | succ n ih => rw [List.replicate_succ, triFinal, triNext_of_inBand band, ih]

/-- Where a register can read below the largest code the width is not 0, so a register holds that code too. -/
theorem toInt_ofInt_maxCode {t : BitVec w} (room : t.toInt < maxCode w) :
    (BitVec.ofInt w (maxCode w)).toInt = maxCode w := by
  rcases Nat.eq_zero_or_pos w with rfl | hw
  · simp [maxCode, BitVec.toInt_zero_length] at room
  · exact toInt_ofInt_of_isCode hw (minCode_le_maxCode w) le_rfl

/-- Settles O32: EXIT_HI lies in the bands of both 0 and +1, so any number of samples at it keeps apart a pass that
has reached +1 and one that has not. -/
theorem noFiniteLookBehind : Obligations.NoFiniteLookBehind := by
  intro w ac legal tri room n
  have ordered := triOrdered_of_cfgValid legal tri
  have ⟨lo, mid, hi⟩ := ordered
  have bandZero : inBand ac .zero ac.exitHi := ⟨lo.trans mid, hi⟩
  have bandPos : inBand ac .pos ac.exitHi := le_refl ac.exitHi.toInt
  have enters : triFinal ac .zero [BitVec.ofInt w (maxCode w)] = .pos := by
    rw [triFinal, triFinal, sint_eq_toInt, toInt_ofInt_maxCode room]
    exact ordered.triNext_of_gt room .zero
  refine ⟨[], [BitVec.ofInt w (maxCode w)], List.replicate n ac.exitHi, List.length_replicate, ?_⟩
  rw [List.nil_append, triFinal_replicate_of_inBand bandZero, triFinal_append, enters,
    triFinal_replicate_of_inBand bandPos]
  decide

end Sys2Proof.Machine
end

section
/-! PROOFS. The PAM3 decision: its three ranges, the independence of the axes, and the nine constellation points
(obligations O33, O34, O35). -/

namespace Sys2Proof.Machine

variable {p : Params}

/-! The three ranges of the decision (rule R138). -/

theorem pamDec_eq_pos_iff {v up lo : Int} : pamDec v up lo = .pos ↔ v > up := by
  unfold pamDec
  split_ifs <;> simp <;> omega

theorem pamDec_eq_neg_iff {v up lo : Int} : pamDec v up lo = .neg ↔ v ≤ up ∧ v < lo := by
  unfold pamDec
  split_ifs <;> simp <;> omega

theorem pamDec_eq_zero_iff {v up lo : Int} : pamDec v up lo = .zero ↔ lo ≤ v ∧ v ≤ up := by
  unfold pamDec
  split_ifs <;> simp <;> omega

/-- Settles O33: the three ranges; under ordered thresholds a code below the lower one is below the upper one. -/
theorem pam3Decision : Obligations.Pam3Decision := by
  intro v up lo
  refine ⟨pamDec_eq_pos_iff, pamDec_eq_neg_iff, pamDec_eq_zero_iff, fun ordered => ?_⟩
  rw [pamDec_eq_neg_iff]
  omega

/-! The two axes of a record (rule R139). -/

theorem pamRecord_s0_congr {ac ac' : ConfigRegs p.sampleW} {o q : Operands p} (si : o.si = q.si)
    (upper : ac.iUpper = ac'.iUpper) (lower : ac.iLower = ac'.iLower) :
    (pamRecord ac o).s0 = (pamRecord ac' q).s0 := by
  simp only [pamRecord, si, upper, lower]

theorem pamRecord_s1_congr {ac ac' : ConfigRegs p.sampleW} {o q : Operands p} (sq : o.sq = q.sq)
    (upper : ac.qUpper = ac'.qUpper) (lower : ac.qLower = ac'.qLower) :
    (pamRecord ac o).s1 = (pamRecord ac' q).s1 := by
  simp only [pamRecord, sq, upper, lower]

/-- Settles O34: both runs emit `pamRecord`, whose symbols read one axis each. -/
theorem pam3AxesIndependent : Obligations.Pam3AxesIndependent := by
  intro p b c o q es fs a a' activeB pamB activeC pamC
  exact ⟨_, _, pamRecord b.ac o, pamRecord c.ac q, exec_sample_of_pam3 a o es activeB pamB,
    exec_sample_of_pam3 a' q fs activeC pamC, rfl, rfl, rfl, rfl, pamRecord_s0_congr, pamRecord_s1_congr⟩

/-! The nine points (rule R140): with all four thresholds at code 0, the codes -1, 0 and 1 decode to themselves. -/

/-- The PAM3 configuration whose four thresholds are code 0. -/
def pointConfig (p : Params) : ConfigRegs p.sampleW :=
  { pam3Config p with iUpper := 0, iLower := 0, qUpper := 0, qLower := 0 }

/-- The operands whose codes are the values of two symbols. -/
def pointOperands (p : Params) (i q : Symbol) : Operands p :=
  { zeroOperands p with si := BitVec.ofInt _ i.value, sq := BitVec.ofInt _ q.value }

theorem cfgValid_pointConfig (p : Params) : cfgValid (pointConfig p) = true :=
  cfgValid_of_pam3 rfl le_rfl le_rfl

/-- The values of the three symbols are codes from `SAMPLE_W = 2` on. -/
theorem sint_ofInt_value {w : Nat} (hw : 2 ≤ w) (s : Symbol) : sint (BitVec.ofInt w s.value) = s.value := by
  have two : 2 ^ 1 ≤ 2 ^ (w - 1) := Nat.pow_le_pow_right (by omega) (by omega)
  have range : -1 ≤ s.value ∧ s.value ≤ 1 := by cases s <;> decide
  rw [sint_eq_toInt]
  exact toInt_ofInt_of_isCode (by omega) (by unfold minCode; omega) (by unfold maxCode; omega)

theorem pamDec_value_zero_zero (s : Symbol) : pamDec s.value 0 0 = s := by cases s <;> rfl

theorem pamRecord_point (hw : 2 ≤ p.sampleW) (i q : Symbol) :
    (pamRecord (pointConfig p) (pointOperands p i q)).s0 = i.enc ∧
      (pamRecord (pointConfig p) (pointOperands p i q)).s1 = q.enc := by
  have zeroCode : sint (0 : BitVec p.sampleW) = 0 := by rw [sint_eq_toInt]; exact BitVec.toInt_zero
  simp only [pamRecord, pointConfig, pointOperands, zeroCode, sint_ofInt_value hw, pamDec_value_zero_zero, and_self]

/-- Settles O35: `pointConfig` with `pointOperands`. -/
theorem pam3NinePoints : Obligations.Pam3NinePoints :=
  fun p ⟨hw, _⟩ =>
    ⟨pointConfig p, cfgValid_pointConfig p, rfl, fun i q => ⟨pointOperands p i q, pamRecord_point hw i q⟩⟩

end Sys2Proof.Machine
end

section
/-! PROOFS. The reset event (obligation O8). -/

namespace Sys2Proof.Machine

variable {p : Params}

/-- The step on a pending reset, whatever command is in progress (rule R190). -/
theorem step_of_reset {s : State} {c : Option (Command s.params)} {rest : List (HostEvent s.params)}
    (pending : s.input = .reset c :: rest) : step s = .next (s.afterReset rest) := by
  simp only [step, pending]

/-- A reset replaces the block and takes the event; the parameters and the ports stay (log entry 6). -/
theorem afterReset_mk (b : Block p) (o : Operands p) (es rest : List (HostEvent p)) :
    State.afterReset ⟨p, b, o, es⟩ rest = ⟨p, resetBlock p, o, rest⟩ := rfl

/-- Settles O8: a pending reset leaves `State.afterReset`, whose block is `resetBlock`, the values of rule R41. -/
theorem resetEventResetsTheBlock : Obligations.ResetEventResetsTheBlock := by
  intro p b o c es
  calc step ⟨p, b, o, .reset c :: es⟩
      = .next (State.afterReset ⟨p, b, o, .reset c :: es⟩ es) := step_of_reset rfl
    _ = .next ⟨p, resetBlock p, o, es⟩ := by rw [afterReset_mk]
    _ = .next ⟨p, { sh := resetConfig p, ac := resetConfig p, h := .zero, status := 0x00, seen := false, out := [] },
          o, es⟩ := by rw [resetBlock]

end Sys2Proof.Machine
end
